-- ==== Sys2Proof/Word.lean ====
section
/-! DEFINITION. The two word sizes of the machine: 8-bit bytes and 16-bit addresses (`00_scope.md` R3, R6). -/

namespace Sys2Proof

/-- "A group of 8 contiguous bits occupying a single memory location" (`00_scope.md` R6): a register, a memory byte,
an immediate datum or a device number. -/
abbrev Byte := BitVec 8

/-- 16 bits: an address, a register pair, the program counter, the stack pointer (`00_scope.md` R3, R6). -/
abbrev Word := BitVec 16

end Sys2Proof
end

