-- ==== Sys2Proof/Syntax.lean ====
section
/-! DEFINITION. The syntax of the instruction set: one constructor of `Instr` per row of `spec/opcode_table.json`, in the order
of the manual's sections (`30_encoding.md` R88), and the operand kinds (`30_encoding.md` R72 to R80). -/

namespace Sys2Proof

/-- An 8-bit operand: one of the seven working registers, or `m`, the memory byte whose address is H:L
(`30_encoding.md` R72, `10_state.md` R10). -/
inductive R8 where
  | b | c | d | e | h | l | m | a
  deriving DecidableEq, Repr

/-- The pair operand of LXI, INX, DCX and DAD (`30_encoding.md` R77). -/
inductive RegPair where
  | b | d | h | sp
  deriving DecidableEq, Repr

/-- The pair operand of PUSH and POP, whose code 11 is PSW (`30_encoding.md` R77). -/
inductive StackPair where
  | b | d | h | psw
  deriving DecidableEq, Repr

/-- The pair operand of STAX and LDAX: "Only pairs B and D can be named" (`30_encoding.md` R79). -/
inductive BDPair where
  | b | d
  deriving DecidableEq, Repr

/-- The eight conditions of jumps, calls and returns (`10_state.md` R34). -/
inductive Cond where
  | nz | z | nc | c | po | pe | p | m
  deriving DecidableEq, Repr

/-- The instructions. A constructor's docstring-free name is its mnemonic in small letters, but for `inp` (IN, whose name
is a word of Lean) and the twelve `unassigned…` rows. -/
inductive Instr where
  -- carry bit, single register and NOP (`40_carry_single_register_nop.md`)
  | stc
  | cmc
  | inr (r : R8)
  | dcr (r : R8)
  | cma
  | daa
  | nop
  -- data transfer (`41_data_transfer.md`)
  | mov (dst src : R8)
  | stax (rp : BDPair)
  | ldax (rp : BDPair)
  -- register or memory to accumulator (`42_accumulator_alu.md`)
  | add (r : R8)
  | adc (r : R8)
  | sub (r : R8)
  | sbb (r : R8)
  | ana (r : R8)
  | xra (r : R8)
  | ora (r : R8)
  | cmp (r : R8)
  -- rotate accumulator (`43_rotate.md`)
  | rlc
  | rrc
  | ral
  | rar
  -- register pair (`44_register_pair.md`)
  | push (rp : StackPair)
  | pop (rp : StackPair)
  | dad (rp : RegPair)
  | inx (rp : RegPair)
  | dcx (rp : RegPair)
  | xchg
  | xthl
  | sphl
  -- immediate (`45_immediate.md`)
  | lxi (rp : RegPair) (data : Word)
  | mvi (r : R8) (data : Byte)
  | adi (data : Byte)
  | aci (data : Byte)
  | sui (data : Byte)
  | sbi (data : Byte)
  | ani (data : Byte)
  | xri (data : Byte)
  | ori (data : Byte)
  | cpi (data : Byte)
  -- direct addressing (`46_direct_addressing.md`)
  | sta (adr : Word)
  | lda (adr : Word)
  | shld (adr : Word)
  | lhld (adr : Word)
  -- jump, call, return, RST (`47_jump_call_return_rst.md`)
  | pchl
  | jmp (adr : Word)
  | jc (adr : Word)
  | jnc (adr : Word)
  | jz (adr : Word)
  | jnz (adr : Word)
  | jm (adr : Word)
  | jp (adr : Word)
  | jpe (adr : Word)
  | jpo (adr : Word)
  | call (adr : Word)
  | cc (adr : Word)
  | cnc (adr : Word)
  | cz (adr : Word)
  | cnz (adr : Word)
  | cm (adr : Word)
  | cp (adr : Word)
  | cpe (adr : Word)
  | cpo (adr : Word)
  | ret
  | rc
  | rnc
  | rz
  | rnz
  | rm
  | rp
  | rpe
  | rpo
  | rst (exp : BitVec 3)
  -- interrupt flip-flop, input/output, halt (`48_interrupt_io_halt.md`)
  | ei
  | di
  | inp (dev : Byte)
  | out (dev : Byte)
  | hlt
  -- the twelve first bytes with no instruction (`30_encoding.md` R91)
  | unassigned08
  | unassigned10
  | unassigned18
  | unassigned20
  | unassigned28
  | unassigned30
  | unassigned38
  | unassignedCB
  | unassignedD9
  | unassignedDD
  | unassignedED
  | unassignedFD
  deriving DecidableEq, Repr

end Sys2Proof
end

