-- ==== Sys2Proof/WellFormed.lean ====
section
/-! DEFINITION. Well-formedness of an instruction. The operand types carry every bound but one: "DST and SRC cannot both =
110B" (`30_encoding.md` R84, `41_data_transfer.md` R120). -/

namespace Sys2Proof

/-- MOV with both operands M does not exist: "the pair DDD = SSS = 110B does not exist as a MOV (the byte 76H is HLT)"
(`41_data_transfer.md` R120). -/
def Instr.isMovMM : Instr → Bool
  | .mov .m .m => true
  | _ => false

/-- The instruction has an encoding: every term but MOV M,M. -/
def Instr.wellFormed (i : Instr) : Bool := !i.isMovMM

/-- The row is one of the 78 instructions, not one of the twelve unassigned first bytes (`30_encoding.md` R90, R91). -/
def Instr.assigned : Instr → Bool
  | .unassigned08 | .unassigned10 | .unassigned18 | .unassigned20 | .unassigned28 | .unassigned30 | .unassigned38
  | .unassignedCB | .unassignedD9 | .unassignedDD | .unassignedED | .unassignedFD => false
  | _ => true

end Sys2Proof
end

