-- ==== Sys2Proof/Decode.lean ====
section
/-! DEFINITION. Decoding and encoding (`30_encoding.md`). The first byte alone selects the operation, the registers and the
length (R70, R71, R92). Every one of the 256 first bytes has a row: 244 an instruction, 12 a row of their own that `exec`
refuses by name (R91). The encoder is written from the patterns of R88, independently of the decoder. -/

namespace Sys2Proof

/-! ## Field codes -/

/-- The 8-bit operand a 3-bit field selects (R72). -/
def R8.ofCode (code : BitVec 3) : R8 :=
  match code with
  | 0b000#3 => .b
  | 0b001#3 => .c
  | 0b010#3 => .d
  | 0b011#3 => .e
  | 0b100#3 => .h
  | 0b101#3 => .l
  | 0b110#3 => .m
  | _ => .a

/-- The 3-bit field of an 8-bit operand (R72). -/
def R8.code : R8 → BitVec 3
  | .b => 0b000#3
  | .c => 0b001#3
  | .d => 0b010#3
  | .e => 0b011#3
  | .h => 0b100#3
  | .l => 0b101#3
  | .m => 0b110#3
  | .a => 0b111#3

/-- The pair the field PP selects in LXI, INX, DCX and DAD (R77). -/
def RegPair.ofCode (code : BitVec 2) : RegPair :=
  match code with
  | 0b00#2 => .b
  | 0b01#2 => .d
  | 0b10#2 => .h
  | _ => .sp

/-- The field PP of a pair of LXI, INX, DCX and DAD (R77). -/
def RegPair.code : RegPair → BitVec 2
  | .b => 0b00#2
  | .d => 0b01#2
  | .h => 0b10#2
  | .sp => 0b11#2

/-- The pair the field PP selects in PUSH and POP (R77). -/
def StackPair.ofCode (code : BitVec 2) : StackPair :=
  match code with
  | 0b00#2 => .b
  | 0b01#2 => .d
  | 0b10#2 => .h
  | _ => .psw

/-- The field PP of a pair of PUSH and POP (R77). -/
def StackPair.code : StackPair → BitVec 2
  | .b => 0b00#2
  | .d => 0b01#2
  | .h => 0b10#2
  | .psw => 0b11#2

/-- The pair bit X of STAX and LDAX (R79). -/
def BDPair.code : BDPair → BitVec 1
  | .b => 0#1
  | .d => 1#1

/-- The code CCC of a condition (R34, R80). -/
def Cond.code : Cond → BitVec 3
  | .nz => 0b000#3
  | .z => 0b001#3
  | .nc => 0b010#3
  | .c => 0b011#3
  | .po => 0b100#3
  | .pe => 0b101#3
  | .p => 0b110#3
  | .m => 0b111#3

/-! ## Length -/

/-- How many bytes an instruction has, from its first byte (the table of R71). For an unassigned first byte, whose length is
not defined, only that byte is fetched: 1 (log 29). -/
def instrLength (op : Byte) : Nat :=
  match op.extractLsb' 6 2, op.extractLsb' 0 3 with
  | 0b00#2, 0b001#3 => if op.getLsbD 3 then 1 else 3
  | 0b00#2, 0b010#3 => if op.getLsbD 5 then 3 else 1
  | 0b00#2, 0b110#3 => 2
  | 0b11#2, 0b010#3 => 3
  | 0b11#2, 0b011#3 =>
    match op.extractLsb' 3 3 with
    | 0b000#3 => 3
    | 0b010#3 => 2
    | 0b011#3 => 2
    | _ => 1
  | 0b11#2, 0b100#3 => 3
  | 0b11#2, 0b101#3 => if op = 0xCD#8 then 3 else 1
  | 0b11#2, 0b110#3 => 2
  | _, _ => 1

/-! ## Decoding -/

/-- Quadrant 00, first bytes 00H to 3FH (R82, R83). -/
def decodeQuadrant00 (op b2 b3 : Byte) : Instr :=
  let ddd := op.extractLsb' 3 3
  let pp := op.extractLsb' 4 2
  match op.extractLsb' 0 3 with
  | 0b000#3 =>
    match ddd with
    | 0b000#3 => .nop
    | 0b001#3 => .unassigned08
    | 0b010#3 => .unassigned10
    | 0b011#3 => .unassigned18
    | 0b100#3 => .unassigned20
    | 0b101#3 => .unassigned28
    | 0b110#3 => .unassigned30
    | _ => .unassigned38
  | 0b001#3 => if op.getLsbD 3 then .dad (.ofCode pp) else .lxi (.ofCode pp) (b3 ++ b2)
  | 0b010#3 =>
    match ddd with
    | 0b000#3 => .stax .b
    | 0b001#3 => .ldax .b
    | 0b010#3 => .stax .d
    | 0b011#3 => .ldax .d
    | 0b100#3 => .shld (b3 ++ b2)
    | 0b101#3 => .lhld (b3 ++ b2)
    | 0b110#3 => .sta (b3 ++ b2)
    | _ => .lda (b3 ++ b2)
  | 0b011#3 => if op.getLsbD 3 then .dcx (.ofCode pp) else .inx (.ofCode pp)
  | 0b100#3 => .inr (.ofCode ddd)
  | 0b101#3 => .dcr (.ofCode ddd)
  | 0b110#3 => .mvi (.ofCode ddd) b2
  | _ =>
    match ddd with
    | 0b000#3 => .rlc
    | 0b001#3 => .rrc
    | 0b010#3 => .ral
    | 0b011#3 => .rar
    | 0b100#3 => .daa
    | 0b101#3 => .cma
    | 0b110#3 => .stc
    | _ => .cmc

/-- Quadrant 01, first bytes 40H to 7FH: MOV, "except the one byte 01110110 (76H), which is HLT" (R84). -/
def decodeQuadrant01 (op : Byte) : Instr :=
  if op = 0x76#8 then .hlt else .mov (.ofCode (op.extractLsb' 3 3)) (.ofCode (op.extractLsb' 0 3))

/-- Quadrant 10, first bytes 80H to BFH (R85). -/
def decodeQuadrant10 (op : Byte) : Instr :=
  let sss := R8.ofCode (op.extractLsb' 0 3)
  match op.extractLsb' 3 3 with
  | 0b000#3 => .add sss
  | 0b001#3 => .adc sss
  | 0b010#3 => .sub sss
  | 0b011#3 => .sbb sss
  | 0b100#3 => .ana sss
  | 0b101#3 => .xra sss
  | 0b110#3 => .ora sss
  | _ => .cmp sss

/-- Quadrant 11, first bytes C0H to FFH (R86). -/
def decodeQuadrant11 (op b2 b3 : Byte) : Instr :=
  let ccc := op.extractLsb' 3 3
  let pp := op.extractLsb' 4 2
  match op.extractLsb' 0 3 with
  | 0b000#3 =>
    match ccc with
    | 0b000#3 => .rnz
    | 0b001#3 => .rz
    | 0b010#3 => .rnc
    | 0b011#3 => .rc
    | 0b100#3 => .rpo
    | 0b101#3 => .rpe
    | 0b110#3 => .rp
    | _ => .rm
  | 0b001#3 =>
    match ccc with
    | 0b001#3 => .ret
    | 0b011#3 => .unassignedD9
    | 0b101#3 => .pchl
    | 0b111#3 => .sphl
    | _ => .pop (.ofCode pp)
  | 0b010#3 =>
    match ccc with
    | 0b000#3 => .jnz (b3 ++ b2)
    | 0b001#3 => .jz (b3 ++ b2)
    | 0b010#3 => .jnc (b3 ++ b2)
    | 0b011#3 => .jc (b3 ++ b2)
    | 0b100#3 => .jpo (b3 ++ b2)
    | 0b101#3 => .jpe (b3 ++ b2)
    | 0b110#3 => .jp (b3 ++ b2)
    | _ => .jm (b3 ++ b2)
  | 0b011#3 =>
    match ccc with
    | 0b000#3 => .jmp (b3 ++ b2)
    | 0b001#3 => .unassignedCB
    | 0b010#3 => .out b2
    | 0b011#3 => .inp b2
    | 0b100#3 => .xthl
    | 0b101#3 => .xchg
    | 0b110#3 => .di
    | _ => .ei
  | 0b100#3 =>
    match ccc with
    | 0b000#3 => .cnz (b3 ++ b2)
    | 0b001#3 => .cz (b3 ++ b2)
    | 0b010#3 => .cnc (b3 ++ b2)
    | 0b011#3 => .cc (b3 ++ b2)
    | 0b100#3 => .cpo (b3 ++ b2)
    | 0b101#3 => .cpe (b3 ++ b2)
    | 0b110#3 => .cp (b3 ++ b2)
    | _ => .cm (b3 ++ b2)
  | 0b101#3 =>
    match ccc with
    | 0b001#3 => .call (b3 ++ b2)
    | 0b011#3 => .unassignedDD
    | 0b101#3 => .unassignedED
    | 0b111#3 => .unassignedFD
    | _ => .push (.ofCode pp)
  | 0b110#3 =>
    match ccc with
    | 0b000#3 => .adi b2
    | 0b001#3 => .aci b2
    | 0b010#3 => .sui b2
    | 0b011#3 => .sbi b2
    | 0b100#3 => .ani b2
    | 0b101#3 => .xri b2
    | 0b110#3 => .ori b2
    | _ => .cpi b2
  | _ => .rst ccc

/-- The row a first byte selects, with the second and third bytes where it has them (R92: total on the first byte; "the
second and third bytes never take part in selecting the operation"). The 16-bit field is `byte3 : byte2` (R75). -/
def decodeBytes (op b2 b3 : Byte) : Instr :=
  match op.extractLsb' 6 2 with
  | 0b00#2 => decodeQuadrant00 op b2 b3
  | 0b01#2 => decodeQuadrant01 op
  | 0b10#2 => decodeQuadrant10 op
  | _ => decodeQuadrant11 op b2 b3

/-- Why a string of bytes holds no whole instruction. -/
inductive DecodeError where
  /-- There is no byte at all. -/
  | noBytes
  /-- The first byte `op` asks for more bytes than are there. -/
  | truncated (op : Byte)
  deriving DecidableEq, Repr

/-- Decoding of a string of bytes, first byte first: the instruction and the bytes after it (R70, R71). -/
def decode (bytes : List Byte) : Except DecodeError (Instr × List Byte) :=
  match bytes with
  | [] => .error .noBytes
  | op :: rest =>
    match instrLength op, rest with
    | 1, _ => .ok (decodeBytes op 0#8 0#8, rest)
    | 2, b2 :: rest' => .ok (decodeBytes op b2 0#8, rest')
    | 3, b2 :: b3 :: rest' => .ok (decodeBytes op b2 b3, rest')
    | _, _ => .error (.truncated op)

/-- The low `nbits` bits of `w` as three bytes, the first byte the least significant (the numbering of
`spec/opcode_table.json`). -/
def tableWordBytes (nbits w : Nat) : List Byte :=
  let v := w % 2 ^ nbits
  [BitVec.ofNat 8 v, BitVec.ofNat 8 (v / 256), BitVec.ofNat 8 (v / 65536)]

/-- The instruction the decoder reads from an opcode-table row's bits. -/
def decodeTableWord (nbits w : Nat) : Option Instr :=
  match decode (tableWordBytes nbits w) with
  | .ok (i, _) => some i
  | .error _ => none

/-! ## Encoding -/

/-- The low byte of a 16-bit value. -/
def lowByte (w : Word) : Byte := w.extractLsb' 0 8

/-- The high byte of a 16-bit value. -/
def highByte (w : Word) : Byte := w.extractLsb' 8 8

/-- A three-byte instruction: "the address is held least significant byte first" (R70, R75). -/
def withWord (op : Byte) (w : Word) : List Byte := [op, lowByte w, highByte w]

/-- The bytes of an instruction, from the patterns of R88. MOV M,M, which has no encoding, is given no bytes. -/
def encode : Instr → List Byte
  | .stc => [0b00110111#8]
  | .cmc => [0b00111111#8]
  | .inr r => [0b00#2 ++ r.code ++ 0b100#3]
  | .dcr r => [0b00#2 ++ r.code ++ 0b101#3]
  | .cma => [0b00101111#8]
  | .daa => [0b00100111#8]
  | .nop => [0b00000000#8]
  | .mov dst src => if dst = .m ∧ src = .m then [] else [0b01#2 ++ dst.code ++ src.code]
  | .stax rp => [0b000#3 ++ rp.code ++ 0b0010#4]
  | .ldax rp => [0b000#3 ++ rp.code ++ 0b1010#4]
  | .add r => [0b10000#5 ++ r.code]
  | .adc r => [0b10001#5 ++ r.code]
  | .sub r => [0b10010#5 ++ r.code]
  | .sbb r => [0b10011#5 ++ r.code]
  | .ana r => [0b10100#5 ++ r.code]
  | .xra r => [0b10101#5 ++ r.code]
  | .ora r => [0b10110#5 ++ r.code]
  | .cmp r => [0b10111#5 ++ r.code]
  | .rlc => [0b00000111#8]
  | .rrc => [0b00001111#8]
  | .ral => [0b00010111#8]
  | .rar => [0b00011111#8]
  | .push rp => [0b11#2 ++ rp.code ++ 0b0101#4]
  | .pop rp => [0b11#2 ++ rp.code ++ 0b0001#4]
  | .dad rp => [0b00#2 ++ rp.code ++ 0b1001#4]
  | .inx rp => [0b00#2 ++ rp.code ++ 0b0011#4]
  | .dcx rp => [0b00#2 ++ rp.code ++ 0b1011#4]
  | .xchg => [0b11101011#8]
  | .xthl => [0b11100011#8]
  | .sphl => [0b11111001#8]
  | .lxi rp data => withWord (0b00#2 ++ rp.code ++ 0b0001#4) data
  | .mvi r data => [0b00#2 ++ r.code ++ 0b110#3, data]
  | .adi data => [0b11000110#8, data]
  | .aci data => [0b11001110#8, data]
  | .sui data => [0b11010110#8, data]
  | .sbi data => [0b11011110#8, data]
  | .ani data => [0b11100110#8, data]
  | .xri data => [0b11101110#8, data]
  | .ori data => [0b11110110#8, data]
  | .cpi data => [0b11111110#8, data]
  | .sta adr => withWord 0b00110010#8 adr
  | .lda adr => withWord 0b00111010#8 adr
  | .shld adr => withWord 0b00100010#8 adr
  | .lhld adr => withWord 0b00101010#8 adr
  | .pchl => [0b11101001#8]
  | .jmp adr => withWord 0b11000011#8 adr
  | .jc adr => withWord (0b11#2 ++ Cond.c.code ++ 0b010#3) adr
  | .jnc adr => withWord (0b11#2 ++ Cond.nc.code ++ 0b010#3) adr
  | .jz adr => withWord (0b11#2 ++ Cond.z.code ++ 0b010#3) adr
  | .jnz adr => withWord (0b11#2 ++ Cond.nz.code ++ 0b010#3) adr
  | .jm adr => withWord (0b11#2 ++ Cond.m.code ++ 0b010#3) adr
  | .jp adr => withWord (0b11#2 ++ Cond.p.code ++ 0b010#3) adr
  | .jpe adr => withWord (0b11#2 ++ Cond.pe.code ++ 0b010#3) adr
  | .jpo adr => withWord (0b11#2 ++ Cond.po.code ++ 0b010#3) adr
  | .call adr => withWord 0b11001101#8 adr
  | .cc adr => withWord (0b11#2 ++ Cond.c.code ++ 0b100#3) adr
  | .cnc adr => withWord (0b11#2 ++ Cond.nc.code ++ 0b100#3) adr
  | .cz adr => withWord (0b11#2 ++ Cond.z.code ++ 0b100#3) adr
  | .cnz adr => withWord (0b11#2 ++ Cond.nz.code ++ 0b100#3) adr
  | .cm adr => withWord (0b11#2 ++ Cond.m.code ++ 0b100#3) adr
  | .cp adr => withWord (0b11#2 ++ Cond.p.code ++ 0b100#3) adr
  | .cpe adr => withWord (0b11#2 ++ Cond.pe.code ++ 0b100#3) adr
  | .cpo adr => withWord (0b11#2 ++ Cond.po.code ++ 0b100#3) adr
  | .ret => [0b11001001#8]
  | .rc => [0b11#2 ++ Cond.c.code ++ 0b000#3]
  | .rnc => [0b11#2 ++ Cond.nc.code ++ 0b000#3]
  | .rz => [0b11#2 ++ Cond.z.code ++ 0b000#3]
  | .rnz => [0b11#2 ++ Cond.nz.code ++ 0b000#3]
  | .rm => [0b11#2 ++ Cond.m.code ++ 0b000#3]
  | .rp => [0b11#2 ++ Cond.p.code ++ 0b000#3]
  | .rpe => [0b11#2 ++ Cond.pe.code ++ 0b000#3]
  | .rpo => [0b11#2 ++ Cond.po.code ++ 0b000#3]
  | .rst exp => [0b11#2 ++ exp ++ 0b111#3]
  | .ei => [0b11111011#8]
  | .di => [0b11110011#8]
  | .inp dev => [0b11011011#8, dev]
  | .out dev => [0b11010011#8, dev]
  | .hlt => [0b01110110#8]
  | .unassigned08 => [0x08#8]
  | .unassigned10 => [0x10#8]
  | .unassigned18 => [0x18#8]
  | .unassigned20 => [0x20#8]
  | .unassigned28 => [0x28#8]
  | .unassigned30 => [0x30#8]
  | .unassigned38 => [0x38#8]
  | .unassignedCB => [0xCB#8]
  | .unassignedD9 => [0xD9#8]
  | .unassignedDD => [0xDD#8]
  | .unassignedED => [0xED#8]
  | .unassignedFD => [0xFD#8]

/-! ## The opcode table -/

/-- The mnemonic of the row, letter for letter as `spec/opcode_table.json` has it. -/
def Instr.mnemonic : Instr → String
  | .stc => "STC"
  | .cmc => "CMC"
  | .inr _ => "INR"
  | .dcr _ => "DCR"
  | .cma => "CMA"
  | .daa => "DAA"
  | .nop => "NOP"
  | .mov _ _ => "MOV"
  | .stax _ => "STAX"
  | .ldax _ => "LDAX"
  | .add _ => "ADD"
  | .adc _ => "ADC"
  | .sub _ => "SUB"
  | .sbb _ => "SBB"
  | .ana _ => "ANA"
  | .xra _ => "XRA"
  | .ora _ => "ORA"
  | .cmp _ => "CMP"
  | .rlc => "RLC"
  | .rrc => "RRC"
  | .ral => "RAL"
  | .rar => "RAR"
  | .push _ => "PUSH"
  | .pop _ => "POP"
  | .dad _ => "DAD"
  | .inx _ => "INX"
  | .dcx _ => "DCX"
  | .xchg => "XCHG"
  | .xthl => "XTHL"
  | .sphl => "SPHL"
  | .lxi _ _ => "LXI"
  | .mvi _ _ => "MVI"
  | .adi _ => "ADI"
  | .aci _ => "ACI"
  | .sui _ => "SUI"
  | .sbi _ => "SBI"
  | .ani _ => "ANI"
  | .xri _ => "XRI"
  | .ori _ => "ORI"
  | .cpi _ => "CPI"
  | .sta _ => "STA"
  | .lda _ => "LDA"
  | .shld _ => "SHLD"
  | .lhld _ => "LHLD"
  | .pchl => "PCHL"
  | .jmp _ => "JMP"
  | .jc _ => "JC"
  | .jnc _ => "JNC"
  | .jz _ => "JZ"
  | .jnz _ => "JNZ"
  | .jm _ => "JM"
  | .jp _ => "JP"
  | .jpe _ => "JPE"
  | .jpo _ => "JPO"
  | .call _ => "CALL"
  | .cc _ => "CC"
  | .cnc _ => "CNC"
  | .cz _ => "CZ"
  | .cnz _ => "CNZ"
  | .cm _ => "CM"
  | .cp _ => "CP"
  | .cpe _ => "CPE"
  | .cpo _ => "CPO"
  | .ret => "RET"
  | .rc => "RC"
  | .rnc => "RNC"
  | .rz => "RZ"
  | .rnz => "RNZ"
  | .rm => "RM"
  | .rp => "RP"
  | .rpe => "RPE"
  | .rpo => "RPO"
  | .rst _ => "RST"
  | .ei => "EI"
  | .di => "DI"
  | .inp _ => "IN"
  | .out _ => "OUT"
  | .hlt => "HLT"
  | .unassigned08 => "unassigned_08H"
  | .unassigned10 => "unassigned_10H"
  | .unassigned18 => "unassigned_18H"
  | .unassigned20 => "unassigned_20H"
  | .unassigned28 => "unassigned_28H"
  | .unassigned30 => "unassigned_30H"
  | .unassigned38 => "unassigned_38H"
  | .unassignedCB => "unassigned_CBH"
  | .unassignedD9 => "unassigned_D9H"
  | .unassignedDD => "unassigned_DDH"
  | .unassignedED => "unassigned_EDH"
  | .unassignedFD => "unassigned_FDH"

/-- A row of `spec/opcode_table.json`: "a byte b selects the row when b AND mask = match", but for an excluded byte. -/
structure OpcodeRow where
  mnemonic : String
  mask : Byte
  pattern : Byte
  exclude : Option Byte
  deriving DecidableEq, Repr

/-- The byte selects the row. -/
def OpcodeRow.selects (row : OpcodeRow) (op : Byte) : Bool :=
  (op &&& row.mask == row.pattern) && (row.exclude != some op)

/-- Rows 1 to 18 of the opcode table. -/
def opcodeRows1 : List OpcodeRow := [
  ⟨"STC", 0xFF#8, 0x37#8, none⟩,
  ⟨"CMC", 0xFF#8, 0x3F#8, none⟩,
  ⟨"INR", 0xC7#8, 0x04#8, none⟩,
  ⟨"DCR", 0xC7#8, 0x05#8, none⟩,
  ⟨"CMA", 0xFF#8, 0x2F#8, none⟩,
  ⟨"DAA", 0xFF#8, 0x27#8, none⟩,
  ⟨"NOP", 0xFF#8, 0x00#8, none⟩,
  ⟨"HLT", 0xFF#8, 0x76#8, none⟩,
  ⟨"MOV", 0xC0#8, 0x40#8, some 0x76#8⟩,
  ⟨"STAX", 0xEF#8, 0x02#8, none⟩,
  ⟨"LDAX", 0xEF#8, 0x0A#8, none⟩,
  ⟨"ADD", 0xF8#8, 0x80#8, none⟩,
  ⟨"ADC", 0xF8#8, 0x88#8, none⟩,
  ⟨"SUB", 0xF8#8, 0x90#8, none⟩,
  ⟨"SBB", 0xF8#8, 0x98#8, none⟩,
  ⟨"ANA", 0xF8#8, 0xA0#8, none⟩,
  ⟨"XRA", 0xF8#8, 0xA8#8, none⟩,
  ⟨"ORA", 0xF8#8, 0xB0#8, none⟩
]

/-- Rows 19 to 36 of the opcode table. -/
def opcodeRows2 : List OpcodeRow := [
  ⟨"CMP", 0xF8#8, 0xB8#8, none⟩,
  ⟨"RLC", 0xFF#8, 0x07#8, none⟩,
  ⟨"RRC", 0xFF#8, 0x0F#8, none⟩,
  ⟨"RAL", 0xFF#8, 0x17#8, none⟩,
  ⟨"RAR", 0xFF#8, 0x1F#8, none⟩,
  ⟨"PUSH", 0xCF#8, 0xC5#8, none⟩,
  ⟨"POP", 0xCF#8, 0xC1#8, none⟩,
  ⟨"DAD", 0xCF#8, 0x09#8, none⟩,
  ⟨"INX", 0xCF#8, 0x03#8, none⟩,
  ⟨"DCX", 0xCF#8, 0x0B#8, none⟩,
  ⟨"XCHG", 0xFF#8, 0xEB#8, none⟩,
  ⟨"XTHL", 0xFF#8, 0xE3#8, none⟩,
  ⟨"SPHL", 0xFF#8, 0xF9#8, none⟩,
  ⟨"LXI", 0xCF#8, 0x01#8, none⟩,
  ⟨"MVI", 0xC7#8, 0x06#8, none⟩,
  ⟨"ADI", 0xFF#8, 0xC6#8, none⟩,
  ⟨"ACI", 0xFF#8, 0xCE#8, none⟩,
  ⟨"SUI", 0xFF#8, 0xD6#8, none⟩
]

/-- Rows 37 to 54 of the opcode table. -/
def opcodeRows3 : List OpcodeRow := [
  ⟨"SBI", 0xFF#8, 0xDE#8, none⟩,
  ⟨"ANI", 0xFF#8, 0xE6#8, none⟩,
  ⟨"XRI", 0xFF#8, 0xEE#8, none⟩,
  ⟨"ORI", 0xFF#8, 0xF6#8, none⟩,
  ⟨"CPI", 0xFF#8, 0xFE#8, none⟩,
  ⟨"STA", 0xFF#8, 0x32#8, none⟩,
  ⟨"LDA", 0xFF#8, 0x3A#8, none⟩,
  ⟨"SHLD", 0xFF#8, 0x22#8, none⟩,
  ⟨"LHLD", 0xFF#8, 0x2A#8, none⟩,
  ⟨"PCHL", 0xFF#8, 0xE9#8, none⟩,
  ⟨"JMP", 0xFF#8, 0xC3#8, none⟩,
  ⟨"JC", 0xFF#8, 0xDA#8, none⟩,
  ⟨"JNC", 0xFF#8, 0xD2#8, none⟩,
  ⟨"JZ", 0xFF#8, 0xCA#8, none⟩,
  ⟨"JNZ", 0xFF#8, 0xC2#8, none⟩,
  ⟨"JM", 0xFF#8, 0xFA#8, none⟩,
  ⟨"JP", 0xFF#8, 0xF2#8, none⟩,
  ⟨"JPE", 0xFF#8, 0xEA#8, none⟩
]

/-- Rows 55 to 72 of the opcode table. -/
def opcodeRows4 : List OpcodeRow := [
  ⟨"JPO", 0xFF#8, 0xE2#8, none⟩,
  ⟨"CALL", 0xFF#8, 0xCD#8, none⟩,
  ⟨"CC", 0xFF#8, 0xDC#8, none⟩,
  ⟨"CNC", 0xFF#8, 0xD4#8, none⟩,
  ⟨"CZ", 0xFF#8, 0xCC#8, none⟩,
  ⟨"CNZ", 0xFF#8, 0xC4#8, none⟩,
  ⟨"CM", 0xFF#8, 0xFC#8, none⟩,
  ⟨"CP", 0xFF#8, 0xF4#8, none⟩,
  ⟨"CPE", 0xFF#8, 0xEC#8, none⟩,
  ⟨"CPO", 0xFF#8, 0xE4#8, none⟩,
  ⟨"RET", 0xFF#8, 0xC9#8, none⟩,
  ⟨"RC", 0xFF#8, 0xD8#8, none⟩,
  ⟨"RNC", 0xFF#8, 0xD0#8, none⟩,
  ⟨"RZ", 0xFF#8, 0xC8#8, none⟩,
  ⟨"RNZ", 0xFF#8, 0xC0#8, none⟩,
  ⟨"RM", 0xFF#8, 0xF8#8, none⟩,
  ⟨"RP", 0xFF#8, 0xF0#8, none⟩,
  ⟨"RPE", 0xFF#8, 0xE8#8, none⟩
]

/-- Rows 73 to 90 of the opcode table. -/
def opcodeRows5 : List OpcodeRow := [
  ⟨"RPO", 0xFF#8, 0xE0#8, none⟩,
  ⟨"RST", 0xC7#8, 0xC7#8, none⟩,
  ⟨"EI", 0xFF#8, 0xFB#8, none⟩,
  ⟨"DI", 0xFF#8, 0xF3#8, none⟩,
  ⟨"IN", 0xFF#8, 0xDB#8, none⟩,
  ⟨"OUT", 0xFF#8, 0xD3#8, none⟩,
  ⟨"unassigned_08H", 0xFF#8, 0x08#8, none⟩,
  ⟨"unassigned_10H", 0xFF#8, 0x10#8, none⟩,
  ⟨"unassigned_18H", 0xFF#8, 0x18#8, none⟩,
  ⟨"unassigned_20H", 0xFF#8, 0x20#8, none⟩,
  ⟨"unassigned_28H", 0xFF#8, 0x28#8, none⟩,
  ⟨"unassigned_30H", 0xFF#8, 0x30#8, none⟩,
  ⟨"unassigned_38H", 0xFF#8, 0x38#8, none⟩,
  ⟨"unassigned_CBH", 0xFF#8, 0xCB#8, none⟩,
  ⟨"unassigned_D9H", 0xFF#8, 0xD9#8, none⟩,
  ⟨"unassigned_DDH", 0xFF#8, 0xDD#8, none⟩,
  ⟨"unassigned_EDH", 0xFF#8, 0xED#8, none⟩,
  ⟨"unassigned_FDH", 0xFF#8, 0xFD#8, none⟩
]

/-- The opcode table, row by row as the file has it, against which the decoder is checked (R88, R92). -/
def opcodeTable : List OpcodeRow :=
  opcodeRows1 ++ opcodeRows2 ++ opcodeRows3 ++ opcodeRows4 ++ opcodeRows5

end Sys2Proof
end

