-- ==== Sys2Proof/Config.lean ====
section
/-! DEFINITION. What the system around the CPU fixes and the free values of the model (`00_scope.md` R4,
`93_implementation_defined.md` part 1). A free value is an opaque constant: nothing can be proved of what it is, so a
statement about it holds whatever it is. -/

namespace Sys2Proof.Config

/-- FREE VALUE. `MEM_INIT(a)`: the byte at address `a` when no load and no write has defined it
(`20_memory.md` R42; `93_implementation_defined.md` T4: "any value, fixed for the run once drawn"). Log 5. -/
opaque memInit : Word → Byte

/-- FREE VALUE. The byte that the `n`-th read of an ABSENT address of the run returns: "an unspecified byte, a fresh draw at
each read" (`20_memory.md` R41, T3). Log 8. -/
opaque absentByte : Nat → Byte

/-- FREE VALUE. `INPUT(dev, k)`: the byte input device `dev` delivers to the `k`-th IN executed
(`48_interrupt_io_halt.md` R263, T6), where the state's schedule of inputs does not fix it. Log 19. -/
opaque input : Byte → Nat → Byte

/-- `START_PC`, "default 0000H" (`70_reset_and_hazards.md` R371, D1). Log 4. -/
def startPc : Word := 0x0000#16

end Sys2Proof.Config
end

