-- ==== Sys2Proof/Machine/State.lean ====
section
/-! DEFINITION. The state of the machine as plain data: everything `spec/10_state.md` and `spec/20_memory.md` give it, and
the environment's draws (`60_exceptions.md` R342, `48_interrupt_io_halt.md` R263) as lists. -/

namespace Sys2Proof.Machine

/-- The seven 8-bit working registers (`10_state.md` R10). The pairs B, D and H are views of them (R12). -/
structure Regs where
  b : Byte
  c : Byte
  d : Byte
  e : Byte
  h : Byte
  l : Byte
  a : Byte
  deriving DecidableEq, Repr

/-- The five condition bits, set = true (`10_state.md` R20). -/
structure Flags where
  /-- carry, CY (R21) -/
  cy : Bool
  /-- auxiliary carry, AC (R24) -/
  ac : Bool
  /-- sign, S (R25) -/
  s : Bool
  /-- zero, Z (R26) -/
  z : Bool
  /-- parity, P: set for even parity (R22) -/
  p : Bool
  deriving DecidableEq, Repr

/-- The run state (`10_state.md` R29). -/
inductive RunState where
  | running
  | stopped
  deriving DecidableEq, Repr

/-- What stands at an address (`20_memory.md` R41). -/
inductive MemKind where
  /-- read/write memory -/
  | rw
  /-- read only or programmable read only memory -/
  | ro
  /-- no memory at this address -/
  | absent
  deriving DecidableEq, Repr

/-- One region of the memory map: addresses `first` to `last`, both included, are of the kind. -/
structure Region where
  first : Word
  last : Word
  kind : MemKind
  deriving DecidableEq, Repr

/-- The bytes a load or a write has defined, as (address, byte) cells with strictly rising addresses
(`Sys2Proof.Machine.Memory.wf`). An address with no cell holds no such byte. -/
abbrev Memory := List Host.Cell

/-- The state. -/
structure State where
  /-- A, B, C, D, E, H, L (`10_state.md` R10) -/
  regs : Regs
  /-- the program counter (R14); while an instruction executes it holds the address of the next one (R15) -/
  pc : Word
  /-- the stack pointer (R18) -/
  sp : Word
  /-- the condition bits (R20) -/
  flags : Flags
  /-- the interrupt enable flip-flop INTE (R28) -/
  inte : Bool
  /-- RUNNING or STOPPED (R29) -/
  run : RunState
  /-- the bytes of memory (`20_memory.md` R40) -/
  mem : Memory
  /-- `MEM_KIND` as a list of regions, the first that holds an address deciding (`20_memory.md` R41); log 6 -/
  memMap : List Region
  /-- the output trace: (device, byte), oldest first (`20_memory.md` R56) -/
  outTrace : List (Byte × Byte)
  /-- k of `INPUT(dev, k)`: how many IN have executed (`48_interrupt_io_halt.md` R263) -/
  inCount : Nat
  /-- k of `IRQ(k)`: how many instruction boundaries have passed (`60_exceptions.md` R342) -/
  boundary : Nat
  /-- the model's own: the draws `IRQ(0)`, `IRQ(1)`, …, each no request or the first byte of the instruction the device
  supplies; past the end, no request (R342); log 15 -/
  irq : List (Option Byte)
  /-- the model's own: the bytes that IN number 0, 1, … read; past the end, the free value `Config.input`; log 19 -/
  inputs : List Byte
  /-- the model's own: how many reads of ABSENT addresses there have been, which makes the next one's free value fresh
  (`20_memory.md` R41); log 8 -/
  absentReads : Nat
  deriving DecidableEq, Repr

/-- Why the machine stops. -/
inductive Fault where
  /-- STOPPED with INTE = 0: "the 8080 must be powered down and then repowered to resume operation" (`10_state.md` R29,
  `60_exceptions.md` R352). Raised by `step` alone, in that state, in which no step is enabled. Safe: the final state itself is
  the last one reached. -/
  | stoppedForGood
  deriving DecidableEq, Repr

/-- Why the model gives a step no meaning. -/
inductive Refusal where
  /-- The instruction has no meaning in the model yet. Raised by an arm of `exec`. Safe. -/
  | notModelled (mnemonic : String)
  /-- One of the twelve first bytes with no instruction: "the model refuses the step" (`30_encoding.md` R91). Raised by the
  meanings of the twelve unassigned rows. Safe: the run ends and nothing is claimed of what hardware does next. -/
  | unassigned (op : Byte)
  /-- A device supplied a two- or three-byte instruction or an unassigned byte, which "is refused" (`60_exceptions.md` R346).
  Raised by `acceptRequest`. Safe. -/
  | deviceInstruction (op : Byte)
  /-- MOV M,M, which "does not exist as a MOV" (`41_data_transfer.md` R120) and which no byte decodes to. Raised by `execMov`
  on that ill-formed term. Safe. -/
  | movMM
  deriving DecidableEq, Repr

/-- The registers when a run begins: the spec gives no value (`10_state.md` R32); DESIGN CHOICE all 00H, log 1. -/
def Regs.reset : Regs := ⟨0#8, 0#8, 0#8, 0#8, 0#8, 0#8, 0#8⟩

/-- The condition bits when a run begins: the spec gives no value (`10_state.md` R32); DESIGN CHOICE all reset, log 2. -/
def Flags.reset : Flags := ⟨false, false, false, false, false⟩

/-- The state a run begins in (`10_state.md` R32, `70_reset_and_hazards.md` R370): pc = START_PC, INTE = 0, RUNNING, nothing
loaded. SP is a DESIGN CHOICE (log 3), as are the registers (log 1), the condition bits (log 2), the memory map (log 6) and
the empty schedules (logs 15, 19). -/
def State.reset : State where
  regs := Regs.reset
  pc := Config.startPc
  sp := 0x0000#16
  flags := Flags.reset
  inte := false
  run := .running
  mem := []
  memMap := []
  outTrace := []
  inCount := 0
  boundary := 0
  irq := []
  inputs := []
  absentReads := 0

end Sys2Proof.Machine
end

