-- ==== Sys2Proof/Machine/Flags.lean ====
section
/-! DEFINITION. Every computation of condition bits (`10_state.md` R20 to R34, `42_accumulator_alu.md` R131, R132, R137,
`40_carry_single_register_nop.md` R102, R103, R105, `43_rotate.md`). -/

namespace Sys2Proof.Machine

/-- `parity(v)`: "set to 1 for even parity, and is reset to 0 for odd parity" (`10_state.md` R22). -/
def parity (v : Byte) : Bool :=
  !(v.getLsbD 0 ^^ v.getLsbD 1 ^^ v.getLsbD 2 ^^ v.getLsbD 3 ^^ v.getLsbD 4 ^^ v.getLsbD 5 ^^ v.getLsbD 6 ^^ v.getLsbD 7)

/-- `SetZSP(v)` (`10_state.md` R23). -/
def Flags.setZSP (f : Flags) (v : Byte) : Flags := { f with z := v == 0#8, s := v.getLsbD 7, p := parity v }

/-- An 8-bit result with the carries out of bit 7 (as CY takes it) and out of bit 3. -/
structure AluResult where
  res : Byte
  cy : Bool
  ac : Bool
  deriving DecidableEq, Repr

/-- The carry out of bit 3 of `a + b + cin` (`10_state.md` R24). -/
def carry3 (a b : Byte) (cin : Bool) : Bool :=
  decide ((a.extractLsb' 0 4).toNat + (b.extractLsb' 0 4).toNat + cin.toNat > 0x0F)

/-- `Add8(a, b, cin)` (`42_accumulator_alu.md` R131): the exact 9-bit sum, its low byte, its bit 8, and the carry out of
bit 3. -/
def add8 (a b : Byte) (cin : Bool) : AluResult :=
  let t : BitVec 9 := a.zeroExtend 9 + b.zeroExtend 9 + (BitVec.ofBool cin).zeroExtend 9
  { res := t.extractLsb' 0 8, cy := t.getLsbD 8, ac := carry3 a b cin }

/-- `Sub8(a, v, bin)` (`42_accumulator_alu.md` R132): the 9-bit addition of the complements; CY is the complement of the carry
out of bit 7, AC the carry out of bit 3, not complemented (D16; log 21). -/
def sub8 (a v : Byte) (bin : Bool) : AluResult :=
  let t : BitVec 9 := a.zeroExtend 9 + (~~~v).zeroExtend 9 + (BitVec.ofBool (!bin)).zeroExtend 9
  { res := t.extractLsb' 0 8, cy := !t.getLsbD 8, ac := carry3 a (~~~v) (!bin) }

/-- The condition bits after an addition or subtraction: all five (`10_state.md` R33). -/
def AluResult.flags (r : AluResult) : Flags :=
  { cy := r.cy, ac := r.ac, s := r.res.getLsbD 7, z := r.res == 0#8, p := parity r.res }

/-- The condition bits after a logical operation: "CY <- 0; SetZSP(res)", AC unchanged (`42_accumulator_alu.md` R137;
log 25). -/
def Flags.logical (f : Flags) (res : Byte) : Flags := { f.setZSP res with cy := false }

/-- INR's value and condition bits: CY unchanged, AC the carry out of bit 3 of `v + 1` (`40_carry_single_register_nop.md`
R102, D17; log 22). -/
def Flags.increment (f : Flags) (v : Byte) : Byte × Flags :=
  let w := v + 1#8
  (w, { f.setZSP w with ac := carry3 v 1#8 false })

/-- DCR's value and condition bits: CY unchanged, AC the carry out of bit 3 of `v + FFH`
(`40_carry_single_register_nop.md` R103, D17; log 22). -/
def Flags.decrement (f : Flags) (v : Byte) : Byte × Flags :=
  let w := v + 0xFF#8
  (w, { f.setZSP w with ac := carry3 v 0xFF#8 false })

/-- Step 1 of DAA (`40_carry_single_register_nop.md` R105): the accumulator and the bits after it. A carry out of bit 7 sets CY
(D15; log 20). -/
def daaStep1 (a : Byte) (f : Flags) : Byte × Flags :=
  if (a.extractLsb' 0 4).toNat > 9 ∨ f.ac = true then
    let t : BitVec 9 := a.zeroExtend 9 + 6#9
    (t.extractLsb' 0 8,
      { f with ac := f.ac || decide ((a.extractLsb' 0 4).toNat + 6 > 0x0F), cy := f.cy || t.getLsbD 8 })
  else (a, f)

/-- Step 2 of DAA (R105): six is added to the high digit alone. -/
def daaStep2 (a : Byte) (f : Flags) : Byte × Flags :=
  if (a.extractLsb' 4 4).toNat > 9 ∨ f.cy = true then
    let t : BitVec 5 := (a.extractLsb' 4 4).zeroExtend 5 + 6#5
    (t.extractLsb' 0 4 ++ a.extractLsb' 0 4, { f with cy := f.cy || t.getLsbD 4 })
  else (a, f)

/-- DAA: both steps, then SetZSP of the result (R105). -/
def daa (a : Byte) (f : Flags) : Byte × Flags :=
  let (a, f) := daaStep1 a f
  let (a, f) := daaStep2 a f
  (a, f.setZSP a)

/-- The condition-bit byte of pair PSW: S Z 0 AC 0 P 1 CY, bit 7 first (`10_state.md` R27, D9; log 13). -/
def Flags.toByte (f : Flags) : Byte :=
  BitVec.ofBool f.s ++ BitVec.ofBool f.z ++ 0#1 ++ BitVec.ofBool f.ac ++ 0#1 ++ BitVec.ofBool f.p ++ 1#1 ++ BitVec.ofBool f.cy

/-- The condition bits POP PSW loads; bits 5, 3 and 1 are ignored (`10_state.md` R27, D9; log 13). -/
def Flags.ofByte (v : Byte) : Flags :=
  { cy := v.getLsbD 0, ac := v.getLsbD 4, s := v.getLsbD 7, z := v.getLsbD 6, p := v.getLsbD 2 }

/-- `cond(c)`: the truth of a condition (`30_encoding.md` R80, `10_state.md` R34). -/
def Flags.holds (f : Flags) : Cond → Bool
  | .nz => !f.z
  | .z => f.z
  | .nc => !f.cy
  | .c => f.cy
  | .po => !f.p
  | .pe => f.p
  | .p => !f.s
  | .m => f.s

end Sys2Proof.Machine
end

