-- ==== Sys2Proof/Machine/Ops.lean ====
section
/-! DEFINITION. The named operations over memory, stack, devices and control state (`20_memory.md`, `60_exceptions.md`):
every meaning reaches memory, the stack, the devices, INTE and the run state through these. -/

namespace Sys2Proof.Machine

/-! ## Memory as a list of cells -/

/-- The canonical form: addresses strictly rising and inside the 16-bit space. An unlisted address holds no byte that a load
or a write has defined, so no cell can equal what an unlisted one holds, and equal memories are equal lists. -/
abbrev Memory.wf (m : Memory) : Prop := m.Pairwise (fun x y => x.1 < y.1) ∧ ∀ x ∈ m, x.1 < 65536

/-- The byte a load or a write has defined at the address, if any. -/
def Memory.lookup (m : Memory) (key : Nat) : Option Byte :=
  match m with
  | [] => none
  | (k, v) :: rest => if k = key then some v else Memory.lookup rest key

/-- The byte memory holds at an address: the defined one, else `MEM_INIT`'s free byte (`20_memory.md` R42, R44; log 5). This is
the one place that says what an unlisted address reads as. -/
def Memory.read (m : Memory) (adr : Word) : Byte := (m.lookup adr.toNat).getD (Config.memInit adr)

/-- Store a byte at a key, keeping the cells in rising order. -/
def Memory.insert (m : Memory) (key : Nat) (v : Byte) : Memory :=
  match m with
  | [] => [(key, v)]
  | (k, w) :: rest =>
    if key < k then (key, v) :: (k, w) :: rest
    else if key = k then (key, v) :: rest
    else (k, w) :: Memory.insert rest key v

/-- Replace the byte at an address (`20_memory.md` R45, for read/write memory). -/
def Memory.write (m : Memory) (adr : Word) (v : Byte) : Memory := m.insert adr.toNat v

/-- `MEM_KIND(adr)`: the kind of the first region that holds the address, else read/write (`20_memory.md` R41; log 6). -/
def kindIn (map : List Region) (adr : Word) : MemKind :=
  match map with
  | [] => .rw
  | r :: rest => if r.first ≤ adr ∧ adr ≤ r.last then r.kind else kindIn rest adr

/-- `MEM_KIND(adr)` of the state's memory map. -/
def State.kind (s : State) (adr : Word) : MemKind := kindIn s.memMap adr

/-! ## Access primitives (`20_memory.md` R44 to R47) -/

/-- What `MemRead(adr, 1)` returns now: the content of RW or RO memory; at an ABSENT address the next free byte (R44, R41). -/
def State.peek (s : State) (adr : Word) : Byte :=
  match s.kind adr with
  | .absent => Config.absentByte s.absentReads
  | _ => s.mem.read adr

/-- The state after `MemRead(adr, 1)`: "A read has no side effect" (R44), but a read of an ABSENT address uses up a draw. -/
def State.afterRead (s : State) (adr : Word) : State :=
  match s.kind adr with
  | .absent => { s with absentReads := s.absentReads + 1 }
  | _ => s

/-- `MemRead(adr, 1)` (R44). -/
def State.readByte (s : State) (adr : Word) : Byte × State := (s.peek adr, s.afterRead adr)

/-- `MemWrite(adr, 1, v)`: replaces the byte of RW memory, "and does nothing otherwise" (R45). -/
def State.writeByte (s : State) (adr : Word) (v : Byte) : State :=
  match s.kind adr with
  | .rw => { s with mem := s.mem.write adr v }
  | _ => s

/-- `MemRead(adr, 2)`: the byte at `adr` is the low one, the byte at `adr + 1` modulo 2^16 the high one, read in that order
(R46, R47). -/
def State.readWord (s : State) (adr : Word) : Word × State :=
  let (lo, s) := s.readByte adr
  let (hi, s) := s.readByte (adr + 1#16)
  (hi ++ lo, s)

/-- `MemWrite(adr, 2, v)`: the low byte at `adr`, then the high byte at `adr + 1` modulo 2^16 (R46, R47). -/
def State.writeWord (s : State) (adr : Word) (v : Word) : State :=
  (s.writeByte adr (v.extractLsb' 0 8)).writeByte (adr + 1#16) (v.extractLsb' 8 8)

/-! ## The stack (`20_memory.md` R50, R51) -/

/-- A push of two bytes: `first` (the most significant) at SP-1, `second` at SP-2, then SP decremented by two, all modulo 2^16
(R50, `10_state.md` R19). -/
def State.pushBytes (s : State) (first second : Byte) : State :=
  let t := (s.writeByte (s.sp - 1#16) first).writeByte (s.sp - 2#16) second
  { t with sp := s.sp - 2#16 }

/-- `Push16(v)` (R50). -/
def State.push16 (s : State) (v : Word) : State := s.pushBytes (v.extractLsb' 8 8) (v.extractLsb' 0 8)

/-- `Pop16()`: the low byte from SP, the high byte from SP+1, then SP incremented by two, all modulo 2^16 (R51). -/
def State.pop16 (s : State) : Word × State :=
  let (v, t) := s.readWord s.sp
  (v, { t with sp := s.sp + 2#16 })

/-! ## Call and return (`47_jump_call_return_rst.md` R220, R230) -/

/-- `CallOp(target)`: push the return address, which `pc` holds (`10_state.md` R15), and go to the target (R220). -/
def State.callOp (s : State) (target : Word) : State := { s.push16 s.pc with pc := target }

/-- `RetOp()`: pop the program counter (R230). The return from an interrupt routine is this same operation
(`60_exceptions.md` R350). -/
def State.retOp (s : State) : State :=
  let (target, t) := s.pop16
  { t with pc := target }

/-! ## Devices (`20_memory.md` R53 to R56) -/

/-- The byte the next IN reads from a device: `INPUT(dev, k)` for the k-th IN, from the schedule if it reaches so far, else
the free value (`48_interrupt_io_halt.md` R263; log 19). -/
def State.inputByte (s : State) (dev : Byte) : Byte := (s.inputs[s.inCount]?).getD (Config.input dev s.inCount)

/-- `In(dev)` (R55): the byte, and one more IN counted. -/
def State.input (s : State) (dev : Byte) : Byte × State := (s.inputByte dev, { s with inCount := s.inCount + 1 })

/-- `Out(dev, v)`: "appends the pair (dev, v) to an output trace" (R56). -/
def State.output (s : State) (dev v : Byte) : State := { s with outTrace := s.outTrace ++ [(dev, v)] }

/-! ## Interrupts (`60_exceptions.md` R342 to R347) -/

/-- `IRQ(k)` for the boundary the state stands at: no request, or the first byte of the supplied instruction (R342). -/
def State.irqNow (s : State) : Option Byte := (s.irq[s.boundary]?).getD none

/-- The state after the draw of a boundary: k advances (R342, R347). -/
def State.nextBoundary (s : State) : State := { s with boundary := s.boundary + 1 }

/-- TAKING THE INTERRUPT, the hardware's own part (R345): "The interrupt enable bit, INTE, is reset = 0", and the CPU is
RUNNING (R347). "Nothing else happens: no register, condition bit or memory byte is saved by the hardware"; the program
counter is not incremented (R344). What follows is the execution of the supplied instruction. -/
def State.accept (s : State) : State := { s with inte := false, run := .running }

end Sys2Proof.Machine
end

