-- ==== Sys2Proof/Machine/Operands.lean ====
section
/-! DEFINITION. Operands: the registers, the pairs and M (`30_encoding.md` R72, R77, `20_memory.md` R49), and the shapes that
several instructions share. -/

namespace Sys2Proof.Machine

/-! ## Pairs (`10_state.md` R12) -/

/-- `BC = B:C` -/
def Regs.bc (r : Regs) : Word := r.b ++ r.c

/-- `DE = D:E` -/
def Regs.de (r : Regs) : Word := r.d ++ r.e

/-- `HL = H:L` -/
def Regs.hl (r : Regs) : Word := r.h ++ r.l

/-- The address of an M operand: "H:L" (`20_memory.md` R49). -/
def State.hl (s : State) : Word := s.regs.hl

/-- `rp[p]` (`30_encoding.md` R77). -/
def State.pair (s : State) : RegPair → Word
  | .b => s.regs.bc
  | .d => s.regs.de
  | .h => s.regs.hl
  | .sp => s.sp

/-- `rp[p] <- v`: the first register takes bits 15 to 8, the second bits 7 to 0; or SP takes all (`10_state.md` R12). -/
def State.setPair (s : State) (rp : RegPair) (v : Word) : State :=
  match rp with
  | .b => { s with regs := { s.regs with b := v.extractLsb' 8 8, c := v.extractLsb' 0 8 } }
  | .d => { s with regs := { s.regs with d := v.extractLsb' 8 8, e := v.extractLsb' 0 8 } }
  | .h => { s with regs := { s.regs with h := v.extractLsb' 8 8, l := v.extractLsb' 0 8 } }
  | .sp => { s with sp := v }

/-- The address of STAX and LDAX: B:C or D:E (`20_memory.md` R49). -/
def State.bdAddress (s : State) : BDPair → Word
  | .b => s.regs.bc
  | .d => s.regs.de

/-! ## The 8-bit operand (`30_encoding.md` R72) -/

/-- The value of `R8(f)` now: a register, or the byte at H:L. -/
def State.operand (s : State) : R8 → Byte
  | .b => s.regs.b
  | .c => s.regs.c
  | .d => s.regs.d
  | .e => s.regs.e
  | .h => s.regs.h
  | .l => s.regs.l
  | .m => s.peek s.hl
  | .a => s.regs.a

/-- The state after `R8(f)` is read: only M reads memory. -/
def State.afterOperand (s : State) : R8 → State
  | .m => s.afterRead s.hl
  | _ => s

/-- `R8(f)` (R72). -/
def State.readR8 (s : State) (f : R8) : Byte × State := (s.operand f, s.afterOperand f)

/-- `R8(f) <- v` (R72). -/
def State.writeR8 (s : State) (f : R8) (v : Byte) : State :=
  match f with
  | .b => { s with regs := { s.regs with b := v } }
  | .c => { s with regs := { s.regs with c := v } }
  | .d => { s with regs := { s.regs with d := v } }
  | .e => { s with regs := { s.regs with e := v } }
  | .h => { s with regs := { s.regs with h := v } }
  | .l => { s with regs := { s.regs with l := v } }
  | .m => s.writeByte s.hl v
  | .a => { s with regs := { s.regs with a := v } }

/-- `A <- v`. -/
def State.setA (s : State) (v : Byte) : State := { s with regs := { s.regs with a := v } }

/-- The condition bits replaced. -/
def State.setFlags (s : State) (f : Flags) : State := { s with flags := f }

/-- `CY <- v`, the other condition bits unchanged. -/
def State.setCarry (s : State) (v : Bool) : State := { s with flags := { s.flags with cy := v } }

/-! ## Shared shapes -/

/-- The outcome type of a meaning. -/
abbrev Result := Host.Outcome State Fault Refusal

/-- `A <- res; CY <- cy; AC <- ac; SetZSP(res)` (`42_accumulator_alu.md` R131, R132). -/
def State.accumulate (s : State) (r : AluResult) : State := (s.setA r.res).setFlags r.flags

/-- `CY <- cy; AC <- ac; SetZSP(res)`, A not written (`42_accumulator_alu.md` R141). -/
def State.compare (s : State) (r : AluResult) : State := s.setFlags r.flags

/-- `A <- res; CY <- 0; SetZSP(res)`, AC unchanged (`42_accumulator_alu.md` R137). -/
def State.logical (s : State) (res : Byte) : State := (s.setA res).setFlags (s.flags.logical res)

/-- `A <- v; CY <- c`: a rotate, which writes no other condition bit (`43_rotate.md`). -/
def State.rotate (s : State) (v : Byte) (c : Bool) : State := (s.setA v).setCarry c

/-- `if cond then pc <- target` (`47_jump_call_return_rst.md` R212 to R219). -/
def State.jumpIf (s : State) (cnd : Cond) (target : Word) : State :=
  if s.flags.holds cnd then { s with pc := target } else s

/-- `if cond then CallOp(target)` (`47_jump_call_return_rst.md` R222 to R229). -/
def State.callIf (s : State) (cnd : Cond) (target : Word) : State :=
  if s.flags.holds cnd then s.callOp target else s

/-- `if cond then RetOp()` (`47_jump_call_return_rst.md` R232 to R239). -/
def State.retIf (s : State) (cnd : Cond) : State :=
  if s.flags.holds cnd then s.retOp else s

end Sys2Proof.Machine
end

