-- ==== Sys2Proof/Machine/AccumAlu.lean ====
section
/-! DEFINITION. Register or memory to accumulator instructions (`42_accumulator_alu.md`). -/

namespace Sys2Proof.Machine

/-- ADD (R133). -/
def execAdd (r : R8) (s : State) : Result :=
  let (v, s) := s.readR8 r
  .next (s.accumulate (add8 s.regs.a v false))

/-- ADC, with CY as it stands before the instruction (R134). -/
def execAdc (r : R8) (s : State) : Result :=
  let (v, s) := s.readR8 r
  .next (s.accumulate (add8 s.regs.a v s.flags.cy))

/-- SUB (R135). -/
def execSub (r : R8) (s : State) : Result :=
  let (v, s) := s.readR8 r
  .next (s.accumulate (sub8 s.regs.a v false))

/-- SBB, with CY as the borrow (R136). -/
def execSbb (r : R8) (s : State) : Result :=
  let (v, s) := s.readR8 r
  .next (s.accumulate (sub8 s.regs.a v s.flags.cy))

/-- ANA (R138). -/
def execAna (r : R8) (s : State) : Result :=
  let (v, s) := s.readR8 r
  .next (s.logical (s.regs.a &&& v))

/-- XRA (R139). -/
def execXra (r : R8) (s : State) : Result :=
  let (v, s) := s.readR8 r
  .next (s.logical (s.regs.a ^^^ v))

/-- ORA (R140). -/
def execOra (r : R8) (s : State) : Result :=
  let (v, s) := s.readR8 r
  .next (s.logical (s.regs.a ||| v))

/-- CMP: the condition bits of the subtraction, A not written (R141). -/
def execCmp (r : R8) (s : State) : Result :=
  let (v, s) := s.readR8 r
  .next (s.compare (sub8 s.regs.a v false))

end Sys2Proof.Machine
end

