-- ==== Sys2Proof/Machine/CarrySingle.lean ====
section
/-! DEFINITION. Carry bit, single register and NOP instructions (`40_carry_single_register_nop.md`). In every meaning the state given holds
`pc = next` (`10_state.md` R15). -/

namespace Sys2Proof.Machine

/-- STC: "The carry bit is set to one" (R100). -/
def execStc (s : State) : Result := .next (s.setCarry true)

/-- CMC: `CY <- 1 - CY` (R101). -/
def execCmc (s : State) : Result := .next (s.setCarry (!s.flags.cy))

/-- INR: read the operand, write it incremented, set AC, Z, S, P (R102). -/
def execInr (r : R8) (s : State) : Result :=
  let (v, s) := s.readR8 r
  let (w, f) := s.flags.increment v
  .next ((s.writeR8 r w).setFlags f)

/-- DCR: read the operand, write it decremented, set AC, Z, S, P (R103). -/
def execDcr (r : R8) (s : State) : Result :=
  let (v, s) := s.readR8 r
  let (w, f) := s.flags.decrement v
  .next ((s.writeR8 r w).setFlags f)

/-- CMA: `A <- ~A`, no condition bit (R104). -/
def execCma (s : State) : Result := .next (s.setA (~~~s.regs.a))

/-- DAA (R105). -/
def execDaa (s : State) : Result :=
  let (a, f) := daa s.regs.a s.flags
  .next ((s.setA a).setFlags f)

/-- NOP: "No operation occurs" (R106). -/
def execNop (s : State) : Result := .next s

end Sys2Proof.Machine
end

