-- ==== Sys2Proof/Machine/Control.lean ====
section
/-! DEFINITION. Jump, call, return and RST instructions (`47_jump_call_return_rst.md`). The state given holds `pc = next`, so a
conditional whose condition is false leaves it (R15, R16). -/

namespace Sys2Proof.Machine

/-! ## Jumps -/

/-- PCHL: `pc <- H : L` (R210). -/
def execPchl (s : State) : Result := .next { s with pc := s.hl }

/-- JMP: `pc <- addr16` (R211). -/
def execJmp (adr : Word) (s : State) : Result := .next { s with pc := adr }

/-- JC: jump if carry (R212). -/
def execJc (adr : Word) (s : State) : Result := .next (s.jumpIf .c adr)

/-- JNC: jump if no carry (R213). -/
def execJnc (adr : Word) (s : State) : Result := .next (s.jumpIf .nc adr)

/-- JZ: jump if zero (R214). -/
def execJz (adr : Word) (s : State) : Result := .next (s.jumpIf .z adr)

/-- JNZ: jump if not zero (R215). -/
def execJnz (adr : Word) (s : State) : Result := .next (s.jumpIf .nz adr)

/-- JM: jump if minus (R216). -/
def execJm (adr : Word) (s : State) : Result := .next (s.jumpIf .m adr)

/-- JP: jump if plus (R217). -/
def execJp (adr : Word) (s : State) : Result := .next (s.jumpIf .p adr)

/-- JPE: jump if parity even (R218). -/
def execJpe (adr : Word) (s : State) : Result := .next (s.jumpIf .pe adr)

/-- JPO: jump if parity odd (R219). -/
def execJpo (adr : Word) (s : State) : Result := .next (s.jumpIf .po adr)

/-! ## Calls -/

/-- CALL: `CallOp(addr16)` (R221). -/
def execCall (adr : Word) (s : State) : Result := .next (s.callOp adr)

/-- CC: call if carry (R222). -/
def execCc (adr : Word) (s : State) : Result := .next (s.callIf .c adr)

/-- CNC: call if no carry (R223). -/
def execCnc (adr : Word) (s : State) : Result := .next (s.callIf .nc adr)

/-- CZ: call if zero (R224). -/
def execCz (adr : Word) (s : State) : Result := .next (s.callIf .z adr)

/-- CNZ: call if not zero (R225). -/
def execCnz (adr : Word) (s : State) : Result := .next (s.callIf .nz adr)

/-- CM: call if minus (R226). -/
def execCm (adr : Word) (s : State) : Result := .next (s.callIf .m adr)

/-- CP: call if plus (R227). -/
def execCp (adr : Word) (s : State) : Result := .next (s.callIf .p adr)

/-- CPE: call if parity even (R228). -/
def execCpe (adr : Word) (s : State) : Result := .next (s.callIf .pe adr)

/-- CPO: call if parity odd (R229). -/
def execCpo (adr : Word) (s : State) : Result := .next (s.callIf .po adr)

/-! ## Returns -/

/-- RET: `RetOp()` (R231). -/
def execRet (s : State) : Result := .next s.retOp

/-- RC: return if carry (R232). -/
def execRc (s : State) : Result := .next (s.retIf .c)

/-- RNC: return if no carry (R233). -/
def execRnc (s : State) : Result := .next (s.retIf .nc)

/-- RZ: return if zero (R234). -/
def execRz (s : State) : Result := .next (s.retIf .z)

/-- RNZ: return if not zero (R235). -/
def execRnz (s : State) : Result := .next (s.retIf .nz)

/-- RM: return if minus (R236). -/
def execRm (s : State) : Result := .next (s.retIf .m)

/-- RP: return if plus (R237). -/
def execRp (s : State) : Result := .next (s.retIf .p)

/-- RPE: return if parity even (R238). -/
def execRpe (s : State) : Result := .next (s.retIf .pe)

/-- RPO: return if parity odd (R239). -/
def execRpo (s : State) : Result := .next (s.retIf .po)

/-! ## RST -/

/-- The address RST calls: `zext_16(AAA) * 8` (R241, `30_encoding.md` R78). -/
def rstTarget (exp : BitVec 3) : Word := exp.zeroExtend 16 * 8#16

/-- RST: `CallOp(zext_16(AAA) * 8)` (R241). -/
def execRst (exp : BitVec 3) (s : State) : Result := .next (s.callOp (rstTarget exp))

end Sys2Proof.Machine
end

