-- ==== Sys2Proof/Machine/Direct.lean ====
section
/-! DEFINITION. Direct addressing instructions (`46_direct_addressing.md`). -/

namespace Sys2Proof.Machine

/-- STA: `MemWrite(addr16, 1, A)` (R200). -/
def execSta (adr : Word) (s : State) : Result := .next (s.writeByte adr s.regs.a)

/-- LDA: `A <- MemRead(addr16, 1)` (R201). -/
def execLda (adr : Word) (s : State) : Result :=
  let (v, s) := s.readByte adr
  .next (s.setA v)

/-- SHLD: L at the address, H at the next one modulo 2^16 (R202). -/
def execShld (adr : Word) (s : State) : Result := .next (s.writeWord adr s.hl)

/-- LHLD: L from the address, H from the next one modulo 2^16 (R203). -/
def execLhld (adr : Word) (s : State) : Result :=
  let (v, s) := s.readWord adr
  .next (s.setPair .h v)

end Sys2Proof.Machine
end

