-- ==== Sys2Proof/Machine/Immediate.lean ====
section
/-! DEFINITION. Immediate instructions (`45_immediate.md`). -/

namespace Sys2Proof.Machine

/-- LXI: `rp[PP] <- byte3 : byte2` (R180). -/
def execLxi (rp : RegPair) (data : Word) (s : State) : Result := .next (s.setPair rp data)

/-- MVI: `R8(DDD) <- byte2` (R181). -/
def execMvi (r : R8) (data : Byte) (s : State) : Result := .next (s.writeR8 r data)

/-- ADI (R182). -/
def execAdi (data : Byte) (s : State) : Result := .next (s.accumulate (add8 s.regs.a data false))

/-- ACI (R183). -/
def execAci (data : Byte) (s : State) : Result := .next (s.accumulate (add8 s.regs.a data s.flags.cy))

/-- SUI (R184). -/
def execSui (data : Byte) (s : State) : Result := .next (s.accumulate (sub8 s.regs.a data false))

/-- SBI (R185). -/
def execSbi (data : Byte) (s : State) : Result := .next (s.accumulate (sub8 s.regs.a data s.flags.cy))

/-- ANI (R186). -/
def execAni (data : Byte) (s : State) : Result := .next (s.logical (s.regs.a &&& data))

/-- XRI (R187). -/
def execXri (data : Byte) (s : State) : Result := .next (s.logical (s.regs.a ^^^ data))

/-- ORI (R188). -/
def execOri (data : Byte) (s : State) : Result := .next (s.logical (s.regs.a ||| data))

/-- CPI: the condition bits of the subtraction, A not written (R189). -/
def execCpi (data : Byte) (s : State) : Result := .next (s.compare (sub8 s.regs.a data false))

end Sys2Proof.Machine
end

