-- ==== Sys2Proof/Machine/InterruptIo.lean ====
section
/-! DEFINITION. Interrupt flip-flop, input/output and halt instructions (`48_interrupt_io_halt.md`). -/

namespace Sys2Proof.Machine

/-- EI: `INTE <- 1`, in force at the very next boundary (R260, R262; log 17). -/
def execEi (s : State) : Result := .next { s with inte := true }

/-- DI: `INTE <- 0` (R261). -/
def execDi (s : State) : Result := .next { s with inte := false }

/-- IN: `A <- In(byte2)`, no condition bit; it always completes (R263; log 19). -/
def execIn (dev : Byte) (s : State) : Result :=
  let (v, s) := s.input dev
  .next (s.setA v)

/-- OUT: `Out(byte2, A)` (R264). -/
def execOut (dev : Byte) (s : State) : Result := .next (s.output dev s.regs.a)

/-- HLT: "The CPU then enters the STOPPED state" (R265). -/
def execHlt (s : State) : Result := .next { s with run := .stopped }

end Sys2Proof.Machine
end

