-- ==== Sys2Proof/Machine/RegisterPair.lean ====
section
/-! DEFINITION. Register pair instructions (`44_register_pair.md`). -/

namespace Sys2Proof.Machine

/-- The two bytes PUSH saves, first the one stored at SP-1: the pair's registers, or for PSW the condition-bit byte and A
(R160, `10_state.md` R13; log 14). -/
def State.stackPair (s : State) : StackPair → Byte × Byte
  | .b => (s.regs.b, s.regs.c)
  | .d => (s.regs.d, s.regs.e)
  | .h => (s.regs.h, s.regs.l)
  | .psw => (s.flags.toByte, s.regs.a)

/-- What POP does with the two bytes it has read: `first` from SP+1, `second` from SP (R161). -/
def State.setStackPair (s : State) (rp : StackPair) (first second : Byte) : State :=
  match rp with
  | .b => { s with regs := { s.regs with b := first, c := second } }
  | .d => { s with regs := { s.regs with d := first, e := second } }
  | .h => { s with regs := { s.regs with h := first, l := second } }
  | .psw => (s.setA second).setFlags (Flags.ofByte first)

/-- PUSH (R160). -/
def execPush (rp : StackPair) (s : State) : Result :=
  let (first, second) := s.stackPair rp
  .next (s.pushBytes first second)

/-- POP (R161). -/
def execPop (rp : StackPair) (s : State) : Result :=
  let (v, s) := s.pop16
  .next (s.setStackPair rp (v.extractLsb' 8 8) (v.extractLsb' 0 8))

/-- DAD: the 17-bit sum of HL and the pair; HL takes bits 15 to 0, CY bit 16, no other condition bit (R163). -/
def execDad (rp : RegPair) (s : State) : Result :=
  let t : BitVec 17 := s.hl.zeroExtend 17 + (s.pair rp).zeroExtend 17
  .next ((s.setPair .h (t.extractLsb' 0 16)).setCarry (t.getLsbD 16))

/-- INX: `rp[PP] <- (rp[PP] + 1) mod 2^16` (R164). -/
def execInx (rp : RegPair) (s : State) : Result := .next (s.setPair rp (s.pair rp + 1#16))

/-- DCX: `rp[PP] <- (rp[PP] - 1) mod 2^16` (R165). -/
def execDcx (rp : RegPair) (s : State) : Result := .next (s.setPair rp (s.pair rp - 1#16))

/-- XCHG: H with D, L with E (R166). -/
def execXchg (s : State) : Result :=
  .next { s with regs := { s.regs with h := s.regs.d, l := s.regs.e, d := s.regs.h, e := s.regs.l } }

/-- XTHL: both bytes of the stack's top are read, then L and H are written there, then L and H take what was read (R167). -/
def execXthl (s : State) : Result :=
  let (v, t) := s.readWord s.sp
  .next ((t.writeWord s.sp s.hl).setPair .h v)

/-- SPHL: `SP <- H : L` (R168). -/
def execSphl (s : State) : Result := .next { s with sp := s.hl }

end Sys2Proof.Machine
end

