-- ==== Sys2Proof/Machine/Rotate.lean ====
section
/-! DEFINITION. Rotate accumulator instructions (`43_rotate.md`). -/

namespace Sys2Proof.Machine

/-- RLC: `A <- a[6:0] : a[7]; CY <- a[7]` (R150). -/
def execRlc (s : State) : Result :=
  let a := s.regs.a
  .next (s.rotate (a.extractLsb' 0 7 ++ a.extractLsb' 7 1) (a.getLsbD 7))

/-- RRC: `A <- a[0] : a[7:1]; CY <- a[0]` (R151). -/
def execRrc (s : State) : Result :=
  let a := s.regs.a
  .next (s.rotate (a.extractLsb' 0 1 ++ a.extractLsb' 1 7) (a.getLsbD 0))

/-- RAL: `A <- a[6:0] : c; CY <- a[7]` (R152). -/
def execRal (s : State) : Result :=
  let a := s.regs.a
  .next (s.rotate (a.extractLsb' 0 7 ++ BitVec.ofBool s.flags.cy) (a.getLsbD 7))

/-- RAR: `A <- c : a[7:1]; CY <- a[0]` (R153). -/
def execRar (s : State) : Result :=
  let a := s.regs.a
  .next (s.rotate (BitVec.ofBool s.flags.cy ++ a.extractLsb' 1 7) (a.getLsbD 0))

end Sys2Proof.Machine
end

