-- ==== Sys2Proof/Machine/Transfer.lean ====
section
/-! DEFINITION. Data transfer instructions (`41_data_transfer.md`). -/

namespace Sys2Proof.Machine

/-- MOV: `R8(DDD) <- R8(SSS)` (R120). The term MOV M,M, which has no encoding, is refused by name (log 26). -/
def execMov (dst src : R8) (s : State) : Result :=
  if dst = .m ∧ src = .m then .refused .movMM
  else
    let (v, s) := s.readR8 src
    .next (s.writeR8 dst v)

/-- STAX: `MemWrite(BC or DE, 1, A)` (R121). -/
def execStax (rp : BDPair) (s : State) : Result := .next (s.writeByte (s.bdAddress rp) s.regs.a)

/-- LDAX: `A <- MemRead(BC or DE, 1)` (R122). -/
def execLdax (rp : BDPair) (s : State) : Result :=
  let (v, s) := s.readByte (s.bdAddress rp)
  .next (s.setA v)

end Sys2Proof.Machine
end

