-- ==== Sys2Proof/Machine/Unassigned.lean ====
section
/-! DEFINITION. The twelve first bytes with no instruction: "This spec does not give them a behaviour: when the first byte
fetched is one of the twelve, the model refuses the step" (`30_encoding.md` R91, D8; log 12). -/

namespace Sys2Proof.Machine

/-- First byte 08H: refused (R91). -/
def execUnassigned08 (_s : State) : Result := .refused (.unassigned 0x08#8)

/-- First byte 10H: refused (R91). -/
def execUnassigned10 (_s : State) : Result := .refused (.unassigned 0x10#8)

/-- First byte 18H: refused (R91). -/
def execUnassigned18 (_s : State) : Result := .refused (.unassigned 0x18#8)

/-- First byte 20H: refused (R91). -/
def execUnassigned20 (_s : State) : Result := .refused (.unassigned 0x20#8)

/-- First byte 28H: refused (R91). -/
def execUnassigned28 (_s : State) : Result := .refused (.unassigned 0x28#8)

/-- First byte 30H: refused (R91). -/
def execUnassigned30 (_s : State) : Result := .refused (.unassigned 0x30#8)

/-- First byte 38H: refused (R91). -/
def execUnassigned38 (_s : State) : Result := .refused (.unassigned 0x38#8)

/-- First byte CBH: refused (R91). -/
def execUnassignedCB (_s : State) : Result := .refused (.unassigned 0xCB#8)

/-- First byte D9H: refused (R91). -/
def execUnassignedD9 (_s : State) : Result := .refused (.unassigned 0xD9#8)

/-- First byte DDH: refused (R91). -/
def execUnassignedDD (_s : State) : Result := .refused (.unassigned 0xDD#8)

/-- First byte EDH: refused (R91). -/
def execUnassignedED (_s : State) : Result := .refused (.unassigned 0xED#8)

/-- First byte FDH: refused (R91). -/
def execUnassignedFD (_s : State) : Result := .refused (.unassigned 0xFD#8)

end Sys2Proof.Machine
end

