-- ==== Sys2Proof/Machine/Dispatch.lean ====
section
/-! DEFINITION. The dispatch of an instruction to its meaning: one arm per constructor. The state given holds `pc = next`
(`10_state.md` R15), or the unchanged `pc` for a device-supplied instruction (`60_exceptions.md` R344). -/

namespace Sys2Proof.Machine

/-- `execute(instr)`. -/
def exec (i : Instr) (s : State) : Host.Outcome State Fault Refusal :=
  match i with
  | .stc => Sys2Proof.Machine.execStc s
  | .cmc => Sys2Proof.Machine.execCmc s
  | .inr r => Sys2Proof.Machine.execInr r s
  | .dcr r => Sys2Proof.Machine.execDcr r s
  | .cma => Sys2Proof.Machine.execCma s
  | .daa => Sys2Proof.Machine.execDaa s
  | .nop => Sys2Proof.Machine.execNop s
  | .mov dst src => Sys2Proof.Machine.execMov dst src s
  | .stax rp => Sys2Proof.Machine.execStax rp s
  | .ldax rp => Sys2Proof.Machine.execLdax rp s
  | .add r => Sys2Proof.Machine.execAdd r s
  | .adc r => Sys2Proof.Machine.execAdc r s
  | .sub r => Sys2Proof.Machine.execSub r s
  | .sbb r => Sys2Proof.Machine.execSbb r s
  | .ana r => Sys2Proof.Machine.execAna r s
  | .xra r => Sys2Proof.Machine.execXra r s
  | .ora r => Sys2Proof.Machine.execOra r s
  | .cmp r => Sys2Proof.Machine.execCmp r s
  | .rlc => Sys2Proof.Machine.execRlc s
  | .rrc => Sys2Proof.Machine.execRrc s
  | .ral => Sys2Proof.Machine.execRal s
  | .rar => Sys2Proof.Machine.execRar s
  | .push rp => Sys2Proof.Machine.execPush rp s
  | .pop rp => Sys2Proof.Machine.execPop rp s
  | .dad rp => Sys2Proof.Machine.execDad rp s
  | .inx rp => Sys2Proof.Machine.execInx rp s
  | .dcx rp => Sys2Proof.Machine.execDcx rp s
  | .xchg => Sys2Proof.Machine.execXchg s
  | .xthl => Sys2Proof.Machine.execXthl s
  | .sphl => Sys2Proof.Machine.execSphl s
  | .lxi rp data => Sys2Proof.Machine.execLxi rp data s
  | .mvi r data => Sys2Proof.Machine.execMvi r data s
  | .adi data => Sys2Proof.Machine.execAdi data s
  | .aci data => Sys2Proof.Machine.execAci data s
  | .sui data => Sys2Proof.Machine.execSui data s
  | .sbi data => Sys2Proof.Machine.execSbi data s
  | .ani data => Sys2Proof.Machine.execAni data s
  | .xri data => Sys2Proof.Machine.execXri data s
  | .ori data => Sys2Proof.Machine.execOri data s
  | .cpi data => Sys2Proof.Machine.execCpi data s
  | .sta adr => Sys2Proof.Machine.execSta adr s
  | .lda adr => Sys2Proof.Machine.execLda adr s
  | .shld adr => Sys2Proof.Machine.execShld adr s
  | .lhld adr => Sys2Proof.Machine.execLhld adr s
  | .pchl => Sys2Proof.Machine.execPchl s
  | .jmp adr => Sys2Proof.Machine.execJmp adr s
  | .jc adr => Sys2Proof.Machine.execJc adr s
  | .jnc adr => Sys2Proof.Machine.execJnc adr s
  | .jz adr => Sys2Proof.Machine.execJz adr s
  | .jnz adr => Sys2Proof.Machine.execJnz adr s
  | .jm adr => Sys2Proof.Machine.execJm adr s
  | .jp adr => Sys2Proof.Machine.execJp adr s
  | .jpe adr => Sys2Proof.Machine.execJpe adr s
  | .jpo adr => Sys2Proof.Machine.execJpo adr s
  | .call adr => Sys2Proof.Machine.execCall adr s
  | .cc adr => Sys2Proof.Machine.execCc adr s
  | .cnc adr => Sys2Proof.Machine.execCnc adr s
  | .cz adr => Sys2Proof.Machine.execCz adr s
  | .cnz adr => Sys2Proof.Machine.execCnz adr s
  | .cm adr => Sys2Proof.Machine.execCm adr s
  | .cp adr => Sys2Proof.Machine.execCp adr s
  | .cpe adr => Sys2Proof.Machine.execCpe adr s
  | .cpo adr => Sys2Proof.Machine.execCpo adr s
  | .ret => Sys2Proof.Machine.execRet s
  | .rc => Sys2Proof.Machine.execRc s
  | .rnc => Sys2Proof.Machine.execRnc s
  | .rz => Sys2Proof.Machine.execRz s
  | .rnz => Sys2Proof.Machine.execRnz s
  | .rm => Sys2Proof.Machine.execRm s
  | .rp => Sys2Proof.Machine.execRp s
  | .rpe => Sys2Proof.Machine.execRpe s
  | .rpo => Sys2Proof.Machine.execRpo s
  | .rst exp => Sys2Proof.Machine.execRst exp s
  | .ei => Sys2Proof.Machine.execEi s
  | .di => Sys2Proof.Machine.execDi s
  | .inp dev => Sys2Proof.Machine.execIn dev s
  | .out dev => Sys2Proof.Machine.execOut dev s
  | .hlt => Sys2Proof.Machine.execHlt s
  | .unassigned08 => Sys2Proof.Machine.execUnassigned08 s
  | .unassigned10 => Sys2Proof.Machine.execUnassigned10 s
  | .unassigned18 => Sys2Proof.Machine.execUnassigned18 s
  | .unassigned20 => Sys2Proof.Machine.execUnassigned20 s
  | .unassigned28 => Sys2Proof.Machine.execUnassigned28 s
  | .unassigned30 => Sys2Proof.Machine.execUnassigned30 s
  | .unassigned38 => Sys2Proof.Machine.execUnassigned38 s
  | .unassignedCB => Sys2Proof.Machine.execUnassignedCB s
  | .unassignedD9 => Sys2Proof.Machine.execUnassignedD9 s
  | .unassignedDD => Sys2Proof.Machine.execUnassignedDD s
  | .unassignedED => Sys2Proof.Machine.execUnassignedED s
  | .unassignedFD => Sys2Proof.Machine.execUnassignedFD s

end Sys2Proof.Machine
end

