-- ==== Sys2Proof/Machine/Fetch.lean ====
section
/-! DEFINITION. Fetching an instruction from memory and executing it (`10_state.md` R15, `30_encoding.md` R71, R93), and the
loader behind `State.withFetchWord`. -/

namespace Sys2Proof.Machine

/-- Fetch at `pc`: the first byte at `pc` fixes the length, the other bytes are at `pc + 1` and `pc + 2` modulo 2^16, read in
that order, and `pc` becomes the address after the instruction: "Just before each instruction is executed, the program
counter is advanced" (`10_state.md` R15, R17, `30_encoding.md` R93). Only the bytes the instruction has are read. -/
def fetch (s : State) : Instr × State :=
  let (op, s1) := s.readByte s.pc
  match instrLength op with
  | 1 => (decodeBytes op 0#8 0#8, { s1 with pc := s.pc + 1#16 })
  | 2 =>
    let (b2, s2) := s1.readByte (s.pc + 1#16)
    (decodeBytes op b2 0#8, { s2 with pc := s.pc + 2#16 })
  | _ =>
    let (b2, s2) := s1.readByte (s.pc + 1#16)
    let (b3, s3) := s2.readByte (s.pc + 2#16)
    (decodeBytes op b2 b3, { s3 with pc := s.pc + 3#16 })

/-- One instruction of the program: fetched, then executed with `pc = next` (`10_state.md` R15). -/
def fetchAndExecute (s : State) : Host.Outcome State Fault Refusal :=
  let (i, t) := fetch s
  exec i t

/-! ## Loading from outside the machine (`20_memory.md` R42, `70_reset_and_hazards.md` R383 `P_LOADED`; log 27) -/

/-- Put bytes at an address and the ones after it, whatever the memory's kind there: a load from outside, not a write. -/
def Memory.load (m : Memory) (adr : Word) (bytes : List Byte) : Memory :=
  match bytes with
  | [] => m
  | b :: rest => Memory.load (m.write adr b) (adr + 1#16) rest

/-- Where there is no memory at the address, put some there; elsewhere the map is as it was. -/
def State.provide (s : State) (adr : Word) : State :=
  match s.kind adr with
  | .absent => { s with memMap := ⟨adr, adr, .rw⟩ :: s.memMap }
  | _ => s

/-- The state with an instruction's three bytes loaded at `pc`, where the very next step fetches and runs it: the CPU RUNNING
and no request drawn at this boundary. -/
def State.loadInstruction (s : State) (bytes : List Byte) : State :=
  let t := ((s.provide s.pc).provide (s.pc + 1#16)).provide (s.pc + 2#16)
  { t with mem := t.mem.load s.pc bytes, run := .running, irq := t.irq.set s.boundary none }

end Sys2Proof.Machine
end

