-- ==== Sys2Proof/Machine/Interrupt.lean ====
section
/-! DEFINITION. The interrupt as a step of the machine (`60_exceptions.md` R341 to R347): the 8080's one event that is not an
instruction of the program. The return from an interrupt routine is RET, `State.retOp` of Ops (R350). -/

namespace Sys2Proof.Machine

/-- `IRQ_INSTR_ADMITTED`: "the eight RST instructions and every other one-byte instruction" (`60_exceptions.md` R346; log 16). -/
def admitted (op : Byte) : Bool := instrLength op == 1 && (decodeBytes op 0#8 0#8).assigned

/-- Acceptance of a request that carries the first byte `op`, whole (`60_exceptions.md` R345): INTE reset, RUNNING, then the
supplied instruction executed with the program counter not advanced (R344). An instruction the model does not admit is
refused (R346). -/
def acceptRequest (op : Byte) (s : State) : Host.Outcome State Fault Refusal :=
  if admitted op then exec (decodeBytes op 0#8 0#8) s.accept else .refused (.deviceInstruction op)

/-- What happens at an instruction boundary with the draw `irq` (`60_exceptions.md` R345, R347): an acceptance where INTE = 1
and there is a request; otherwise, RUNNING, the program's next instruction; STOPPED with INTE = 1, a wait; STOPPED with
INTE = 0, no step is enabled (R352). -/
def atBoundary (irq : Option Byte) (s : State) : Host.Outcome State Fault Refusal :=
  match irq, s.inte, s.run with
  | some op, true, _ => acceptRequest op s
  | _, _, .running => fetchAndExecute s
  | none, true, .stopped => .next s
  | _, false, .stopped => .fault .stoppedForGood

end Sys2Proof.Machine
end

