-- ==== Sys2Proof/Machine/Step.lean ====
section
/-! DEFINITION. One step of the machine: the draw of the boundary, then what it and the state enable (`60_exceptions.md` R342
to R347, `70_reset_and_hazards.md` R381, R382). -/

namespace Sys2Proof.Machine

/-- One step: boundary `k` is passed with its draw `IRQ(k)`, and an acceptance, an instruction or a wait follows. -/
def step (s : State) : Host.Outcome State Fault Refusal := atBoundary s.irqNow s.nextBoundary

/-- The state with the table's instruction where the next step fetches, so that the next step runs it (log 27). -/
def State.withFetchWord (s : State) (nbits w : Nat) : State := s.loadInstruction (tableWordBytes nbits w)

end Sys2Proof.Machine
end

