-- ==== Sys2Proof/Machine/Effects.lean ====
section
/-! DEFINITION. What each instruction may read and write, as the spec tabulates it: the condition bits (`10_state.md` R33), the
registers (R11), the stack pointer (R18), the program counter (R14) and the bytes of memory. These tables say what an
instruction may touch; what it does there is the meanings'. Every list has an entry for every instruction, by name. -/

namespace Sys2Proof

open Machine

/-! ## Names of the registers and of the condition bits -/

/-- The seven working registers by name (`10_state.md` R10). -/
inductive Reg where
  | b | c | d | e | h | l | a
  deriving DecidableEq, Repr

/-- The five condition bits by name (`10_state.md` R20). -/
inductive Flag where
  | cy | ac | s | z | p
  deriving DecidableEq, Repr

/-- The content of a register. -/
def Machine.Regs.get (r : Regs) : Reg → Byte
  | .b => r.b
  | .c => r.c
  | .d => r.d
  | .e => r.e
  | .h => r.h
  | .l => r.l
  | .a => r.a

/-- The value of a condition bit. -/
def Machine.Flags.get (f : Flags) : Flag → Bool
  | .cy => f.cy
  | .ac => f.ac
  | .s => f.s
  | .z => f.z
  | .p => f.p

/-- The condition bit a condition tests (`10_state.md` R34). -/
def Cond.flag : Cond → Flag
  | .nz | .z => .z
  | .nc | .c => .cy
  | .po | .pe => .p
  | .p | .m => .s

/-- The condition of a conditional jump, call or return; `none` for the others (`30_encoding.md` R80). -/
def Instr.condition : Instr → Option Cond
  | .jnz _ | .cnz _ | .rnz => some .nz
  | .jz _ | .cz _ | .rz => some .z
  | .jnc _ | .cnc _ | .rnc => some .nc
  | .jc _ | .cc _ | .rc => some .c
  | .jpo _ | .cpo _ | .rpo => some .po
  | .jpe _ | .cpe _ | .rpe => some .pe
  | .jp _ | .cp _ | .rp => some .p
  | .jm _ | .cm _ | .rm => some .m
  | .stc | .cmc | .inr _ | .dcr _ | .cma | .daa | .nop | .mov _ _ | .stax _ | .ldax _ | .add _ | .adc _ | .sub _
  | .sbb _ | .ana _ | .xra _ | .ora _ | .cmp _ | .rlc | .rrc | .ral | .rar | .push _ | .pop _ | .dad _ | .inx _ | .dcx _
  | .xchg | .xthl | .sphl | .lxi _ _ | .mvi _ _ | .adi _ | .aci _ | .sui _ | .sbi _ | .ani _ | .xri _ | .ori _ | .cpi _
  | .sta _ | .lda _ | .shld _ | .lhld _ | .pchl | .jmp _ | .call _ | .ret | .rst _ | .ei | .di | .inp _ | .out _ | .hlt
  | .unassigned08 | .unassigned10 | .unassigned18 | .unassigned20 | .unassigned28 | .unassigned30 | .unassigned38
  | .unassignedCB | .unassignedD9 | .unassignedDD | .unassignedED | .unassignedFD => none

/-- The instruction's condition, if it has one, holds. -/
def Instr.taken (i : Instr) (f : Flags) : Bool := (i.condition.map f.holds).getD true

/-! ## Condition bits (`10_state.md` R33) -/

/-- The condition bits an instruction may write: the rows of the table of R33. -/
def Instr.flagsWritten : Instr → List Flag
  | .stc | .cmc => [.cy]
  | .inr _ | .dcr _ => [.ac, .s, .z, .p]
  | .daa => [.cy, .ac, .s, .z, .p]
  | .add _ | .adc _ | .sub _ | .sbb _ | .cmp _ | .adi _ | .aci _ | .sui _ | .sbi _ | .cpi _ => [.cy, .ac, .s, .z, .p]
  | .ana _ | .xra _ | .ora _ | .ani _ | .xri _ | .ori _ => [.cy, .s, .z, .p]
  | .rlc | .rrc | .ral | .rar => [.cy]
  | .dad _ => [.cy]
  | .pop q => match q with
    | .psw => [.cy, .ac, .s, .z, .p]
    | .b | .d | .h => []
  | .cma | .nop | .mov _ _ | .stax _ | .ldax _ | .push _ | .inx _ | .dcx _ | .xchg | .xthl | .sphl | .lxi _ _ | .mvi _ _
  | .sta _ | .lda _ | .shld _ | .lhld _ | .pchl | .jmp _ | .jc _ | .jnc _ | .jz _ | .jnz _ | .jm _ | .jp _ | .jpe _
  | .jpo _ | .call _ | .cc _ | .cnc _ | .cz _ | .cnz _ | .cm _ | .cp _ | .cpe _ | .cpo _ | .ret | .rc | .rnc | .rz | .rnz
  | .rm | .rp | .rpe | .rpo | .rst _ | .ei | .di | .inp _ | .out _ | .hlt => []
  | .unassigned08 | .unassigned10 | .unassigned18 | .unassigned20 | .unassigned28 | .unassigned30 | .unassigned38
  | .unassignedCB | .unassignedD9 | .unassignedDD | .unassignedED | .unassignedFD => []

/-- The condition bits whose value an instruction uses. -/
def Instr.flagsRead (i : Instr) : List Flag :=
  match i with
  | .cmc | .adc _ | .sbb _ | .aci _ | .sbi _ | .ral | .rar => [.cy]
  | .daa => [.cy, .ac]
  | .push q => match q with
    | .psw => [.cy, .ac, .s, .z, .p]
    | .b | .d | .h => []
  | .jnz _ | .jz _ | .jnc _ | .jc _ | .jpo _ | .jpe _ | .jp _ | .jm _ | .cnz _ | .cz _ | .cnc _ | .cc _ | .cpo _ | .cpe _
  | .cp _ | .cm _ | .rnz | .rz | .rnc | .rc | .rpo | .rpe | .rp | .rm => (i.condition.map Cond.flag).toList
  | .stc | .inr _ | .dcr _ | .cma | .nop | .mov _ _ | .stax _ | .ldax _ | .add _ | .sub _ | .ana _ | .xra _ | .ora _
  | .cmp _ | .rlc | .rrc | .pop _ | .dad _ | .inx _ | .dcx _ | .xchg | .xthl | .sphl | .lxi _ _ | .mvi _ _ | .adi _
  | .sui _ | .ani _ | .xri _ | .ori _ | .cpi _ | .sta _ | .lda _ | .shld _ | .lhld _ | .pchl | .jmp _ | .call _ | .ret
  | .rst _ | .ei | .di | .inp _ | .out _ | .hlt => []
  | .unassigned08 | .unassigned10 | .unassigned18 | .unassigned20 | .unassigned28 | .unassigned30 | .unassigned38
  | .unassignedCB | .unassignedD9 | .unassignedDD | .unassignedED | .unassignedFD => []

/-! ## Registers (`10_state.md` R11, R12) -/

/-- The register an 8-bit operand names: none for M. -/
def R8.written : R8 → List Reg
  | .b => [.b]
  | .c => [.c]
  | .d => [.d]
  | .e => [.e]
  | .h => [.h]
  | .l => [.l]
  | .m => []
  | .a => [.a]

/-- The registers read to get an 8-bit operand: H and L for M. -/
def R8.used : R8 → List Reg
  | .m => [.h, .l]
  | r => r.written

/-- The registers read to name the place an 8-bit result goes: H and L for M. -/
def R8.addressed : R8 → List Reg
  | .m => [.h, .l]
  | .b | .c | .d | .e | .h | .l | .a => []

/-- The two registers of a pair: none for SP. -/
def RegPair.regs : RegPair → List Reg
  | .b => [.b, .c]
  | .d => [.d, .e]
  | .h => [.h, .l]
  | .sp => []

/-- The working registers of a pair of PUSH and POP: A alone for PSW (`10_state.md` R13). -/
def StackPair.regs : StackPair → List Reg
  | .b => [.b, .c]
  | .d => [.d, .e]
  | .h => [.h, .l]
  | .psw => [.a]

/-- The two registers that address STAX and LDAX. -/
def BDPair.regs : BDPair → List Reg
  | .b => [.b, .c]
  | .d => [.d, .e]

/-- The working registers an instruction may write (`10_state.md` R11). -/
def Instr.regsWritten : Instr → List Reg
  | .inr r | .dcr r | .mov r _ | .mvi r _ => r.written
  | .add _ | .adc _ | .sub _ | .sbb _ | .ana _ | .xra _ | .ora _ | .adi _ | .aci _ | .sui _ | .sbi _ | .ani _ | .xri _
  | .ori _ => [.a]
  | .cma | .daa | .rlc | .rrc | .ral | .rar | .ldax _ | .lda _ | .inp _ => [.a]
  | .pop q => q.regs
  | .inx q | .dcx q | .lxi q _ => q.regs
  | .dad _ | .xthl | .lhld _ => [.h, .l]
  | .xchg => [.d, .e, .h, .l]
  | .stc | .cmc | .nop | .stax _ | .cmp _ | .push _ | .sphl | .cpi _ | .sta _ | .shld _ | .pchl | .jmp _ | .jc _ | .jnc _
  | .jz _ | .jnz _ | .jm _ | .jp _ | .jpe _ | .jpo _ | .call _ | .cc _ | .cnc _ | .cz _ | .cnz _ | .cm _ | .cp _ | .cpe _
  | .cpo _ | .ret | .rc | .rnc | .rz | .rnz | .rm | .rp | .rpe | .rpo | .rst _ | .ei | .di | .out _ | .hlt => []
  | .unassigned08 | .unassigned10 | .unassigned18 | .unassigned20 | .unassigned28 | .unassigned30 | .unassigned38
  | .unassignedCB | .unassignedD9 | .unassignedDD | .unassignedED | .unassignedFD => []

/-- The working registers whose value an instruction uses; XRA A and SUB A use none: "their result is the same for every value
of A" (`10_state.md` R32). -/
def Instr.regsRead : Instr → List Reg
  | .inr r | .dcr r => r.used
  | .mov dst src => dst.addressed ++ src.used
  | .mvi r _ => r.addressed
  | .sub .a | .xra .a => []
  | .add r | .adc r | .sub r | .sbb r | .ana r | .xra r | .ora r | .cmp r => .a :: r.used
  | .adi _ | .aci _ | .sui _ | .sbi _ | .ani _ | .xri _ | .ori _ | .cpi _ => [.a]
  | .cma | .daa | .rlc | .rrc | .ral | .rar | .sta _ | .out _ => [.a]
  | .stax q => .a :: q.regs
  | .ldax q => q.regs
  | .push q => q.regs
  | .inx q | .dcx q => q.regs
  | .dad q => [.h, .l] ++ q.regs
  | .xchg => [.d, .e, .h, .l]
  | .xthl | .sphl | .pchl | .shld _ => [.h, .l]
  | .stc | .cmc | .nop | .pop _ | .lxi _ _ | .lda _ | .lhld _ | .jmp _ | .jc _ | .jnc _ | .jz _ | .jnz _ | .jm _ | .jp _
  | .jpe _ | .jpo _ | .call _ | .cc _ | .cnc _ | .cz _ | .cnz _ | .cm _ | .cp _ | .cpe _ | .cpo _ | .ret | .rc | .rnc
  | .rz | .rnz | .rm | .rp | .rpe | .rpo | .rst _ | .ei | .di | .inp _ | .hlt => []
  | .unassigned08 | .unassigned10 | .unassigned18 | .unassigned20 | .unassigned28 | .unassigned30 | .unassigned38
  | .unassignedCB | .unassignedD9 | .unassignedDD | .unassignedED | .unassignedFD => []

/-! ## Stack pointer and program counter -/

/-- The instruction is a push, a pop, a call, a return, an RST or XTHL: it uses the stack, where its condition holds (`10_state.md` R18). -/
def Instr.usesStack : Instr → Bool
  | .push _ | .pop _ | .xthl | .call _ | .cc _ | .cnc _ | .cz _ | .cnz _ | .cm _ | .cp _ | .cpe _ | .cpo _ | .ret | .rc
  | .rnc | .rz | .rnz | .rm | .rp | .rpe | .rpo | .rst _ => true
  | .stc | .cmc | .inr _ | .dcr _ | .cma | .daa | .nop | .mov _ _ | .stax _ | .ldax _ | .add _ | .adc _ | .sub _ | .sbb _
  | .ana _ | .xra _ | .ora _ | .cmp _ | .rlc | .rrc | .ral | .rar | .dad _ | .inx _ | .dcx _ | .xchg | .sphl | .lxi _ _
  | .mvi _ _ | .adi _ | .aci _ | .sui _ | .sbi _ | .ani _ | .xri _ | .ori _ | .cpi _ | .sta _ | .lda _ | .shld _
  | .lhld _ | .pchl | .jmp _ | .jc _ | .jnc _ | .jz _ | .jnz _ | .jm _ | .jp _ | .jpe _ | .jpo _ | .ei | .di | .inp _
  | .out _ | .hlt => false
  | .unassigned08 | .unassigned10 | .unassigned18 | .unassigned20 | .unassigned28 | .unassigned30 | .unassigned38
  | .unassignedCB | .unassignedD9 | .unassignedDD | .unassignedED | .unassignedFD => false

/-- The instruction gives SP a chosen value: LXI SP or SPHL (`70_reset_and_hazards.md` R374). -/
def Instr.loadsSp : Instr → Bool
  | .lxi .sp _ | .sphl => true
  | _ => false

/-- The instruction names SP as an operand it changes: LXI, INX and DCX of SP, and SPHL. -/
def Instr.setsSp : Instr → Bool
  | .lxi .sp _ | .inx .sp | .dcx .sp | .sphl => true
  | _ => false

/-- The instruction performs a stack operation, in a state with these condition bits: a conditional call or return does so "when
taken" only (`10_state.md` R18, `47_jump_call_return_rst.md` R222). -/
def Instr.stackOperation (i : Instr) (f : Flags) : Bool := i.usesStack && i.taken f

/-- The instruction uses the value of SP, in a state with these condition bits: a stack operation, INX, DCX or DAD of SP
(`10_state.md` R18). -/
def Instr.readsSp (i : Instr) (f : Flags) : Bool :=
  match i with
  | .inx .sp | .dcx .sp | .dad .sp => true
  | _ => i.stackOperation f

/-- The instruction writes SP, in a state with these condition bits: it names SP, or it pushes or pops (`10_state.md` R18);
XTHL uses the stack and leaves SP. -/
def Instr.spWritten (i : Instr) (f : Flags) : Bool := i.setsSp || (i.stackOperation f && decide (i ≠ .xthl))

/-- The instruction is a transfer of control: a jump, call, return, RST or PCHL (`10_state.md` R14). -/
def Instr.transfers : Instr → Bool
  | .pchl | .jmp _ | .jc _ | .jnc _ | .jz _ | .jnz _ | .jm _ | .jp _ | .jpe _ | .jpo _ | .call _ | .cc _ | .cnc _ | .cz _
  | .cnz _ | .cm _ | .cp _ | .cpe _ | .cpo _ | .ret | .rc | .rnc | .rz | .rnz | .rm | .rp | .rpe | .rpo | .rst _ => true
  | .stc | .cmc | .inr _ | .dcr _ | .cma | .daa | .nop | .mov _ _ | .stax _ | .ldax _ | .add _ | .adc _ | .sub _ | .sbb _
  | .ana _ | .xra _ | .ora _ | .cmp _ | .rlc | .rrc | .ral | .rar | .push _ | .pop _ | .dad _ | .inx _ | .dcx _ | .xchg
  | .xthl | .sphl | .lxi _ _ | .mvi _ _ | .adi _ | .aci _ | .sui _ | .sbi _ | .ani _ | .xri _ | .ori _ | .cpi _ | .sta _
  | .lda _ | .shld _ | .lhld _ | .ei | .di | .inp _ | .out _ | .hlt => false
  | .unassigned08 | .unassigned10 | .unassigned18 | .unassigned20 | .unassigned28 | .unassigned30 | .unassigned38
  | .unassignedCB | .unassignedD9 | .unassignedDD | .unassignedED | .unassignedFD => false

/-! ## Memory -/

/-- The byte an 8-bit operand M stands for: none for a register. -/
def R8.bytes (r : R8) (s : State) : List Word :=
  match r with
  | .m => [s.hl]
  | .b | .c | .d | .e | .h | .l | .a => []

/-- The addresses an instruction writes, in the order it writes them (the access order of each rule; `20_memory.md` R57). -/
def Instr.storedBytes (i : Instr) (s : State) : List Word :=
  match i with
  | .inr r | .dcr r | .mov r _ | .mvi r _ => r.bytes s
  | .stax q => [s.bdAddress q]
  | .sta adr => [adr]
  | .shld adr => [adr, adr + 1#16]
  | .push _ | .call _ | .rst _ => [s.sp - 1#16, s.sp - 2#16]
  | .cc _ | .cnc _ | .cz _ | .cnz _ | .cm _ | .cp _ | .cpe _ | .cpo _ =>
    if i.taken s.flags then [s.sp - 1#16, s.sp - 2#16] else []
  | .xthl => [s.sp, s.sp + 1#16]
  | .stc | .cmc | .cma | .daa | .nop | .ldax _ | .add _ | .adc _ | .sub _ | .sbb _ | .ana _ | .xra _ | .ora _ | .cmp _
  | .rlc | .rrc | .ral | .rar | .pop _ | .dad _ | .inx _ | .dcx _ | .xchg | .sphl | .lxi _ _ | .adi _ | .aci _ | .sui _
  | .sbi _ | .ani _ | .xri _ | .ori _ | .cpi _ | .lda _ | .lhld _ | .pchl | .jmp _ | .jc _ | .jnc _ | .jz _ | .jnz _
  | .jm _ | .jp _ | .jpe _ | .jpo _ | .ret | .rc | .rnc | .rz | .rnz | .rm | .rp | .rpe | .rpo | .ei | .di | .inp _
  | .out _ | .hlt => []
  | .unassigned08 | .unassigned10 | .unassigned18 | .unassigned20 | .unassigned28 | .unassigned30 | .unassigned38
  | .unassignedCB | .unassignedD9 | .unassignedDD | .unassignedED | .unassignedFD => []

/-- The addresses an instruction reads data from, in the order it reads them. -/
def Instr.loadedBytes (i : Instr) (s : State) : List Word :=
  match i with
  | .inr r | .dcr r | .mov _ r | .add r | .adc r | .sub r | .sbb r | .ana r | .xra r | .ora r | .cmp r => r.bytes s
  | .ldax q => [s.bdAddress q]
  | .lda adr => [adr]
  | .lhld adr => [adr, adr + 1#16]
  | .pop _ | .ret | .xthl => [s.sp, s.sp + 1#16]
  | .rc | .rnc | .rz | .rnz | .rm | .rp | .rpe | .rpo => if i.taken s.flags then [s.sp, s.sp + 1#16] else []
  | .stc | .cmc | .cma | .daa | .nop | .stax _ | .rlc | .rrc | .ral | .rar | .push _ | .dad _ | .inx _ | .dcx _ | .xchg
  | .sphl | .lxi _ _ | .mvi _ _ | .adi _ | .aci _ | .sui _ | .sbi _ | .ani _ | .xri _ | .ori _ | .cpi _ | .sta _
  | .shld _ | .pchl | .jmp _ | .jc _ | .jnc _ | .jz _ | .jnz _ | .jm _ | .jp _ | .jpe _ | .jpo _ | .call _ | .cc _
  | .cnc _ | .cz _ | .cnz _ | .cm _ | .cp _ | .cpe _ | .cpo _ | .rst _ | .ei | .di | .inp _ | .out _ | .hlt => []
  | .unassigned08 | .unassigned10 | .unassigned18 | .unassigned20 | .unassigned28 | .unassigned30 | .unassigned38
  | .unassignedCB | .unassignedD9 | .unassignedDD | .unassignedED | .unassignedFD => []

/-- How many of the addresses have no memory: how many free values reading them takes (`20_memory.md` R41). -/
def Machine.State.absentAmong (s : State) (addresses : List Word) : Nat :=
  addresses.countP (fun adr => s.kind adr == .absent)

/-- The addresses an instruction at `pc` is fetched from (`10_state.md` R15, `30_encoding.md` R93). -/
def Machine.State.fetchedBytes (s : State) : List Word :=
  match instrLength (s.peek s.pc) with
  | 1 => [s.pc]
  | 2 => [s.pc, s.pc + 1#16]
  | _ => [s.pc, s.pc + 1#16, s.pc + 2#16]

end Sys2Proof
end

