-- ==== Sys2Proof/Machine/Timing.lean ====
section
/-! DEFINITION. The time periods of Appendix B (`70_reset_and_hazards.md` R380). Time is not state and no meaning depends on it
(D19; log 24): this is the cost function the spec says a model may carry. -/

namespace Sys2Proof

open Machine

/-- One figure for a register operand, another for M. -/
def R8.periods (r : R8) (register memory : Nat) : Nat :=
  match r with
  | .m => memory
  | .b | .c | .d | .e | .h | .l | .a => register

/-- Number of time periods of an instruction executed with these condition bits: "the smaller number of time periods will be
required if a condition is not met, and the larger number of time periods will be required if the condition is met" (R380).
The twelve unassigned first bytes have no figure. -/
def Instr.timePeriods (i : Instr) (f : Flags) : Option Nat :=
  match i with
  | .nop | .ei | .di | .xchg | .cma | .stc | .cmc | .daa | .rlc | .rrc | .ral | .rar => some 4
  | .add r | .adc r | .sub r | .sbb r | .ana r | .xra r | .ora r | .cmp r => some (r.periods 4 7)
  | .adi _ | .aci _ | .sui _ | .sbi _ | .ani _ | .xri _ | .ori _ | .cpi _ => some 7
  | .mov dst src => some (dst.periods (src.periods 5 7) 7)
  | .mvi r _ => some (r.periods 7 10)
  | .inr r | .dcr r => some (r.periods 5 10)
  | .inx _ | .dcx _ => some 5
  | .dad _ | .lxi _ _ => some 10
  | .stax _ | .ldax _ => some 7
  | .sta _ | .lda _ => some 13
  | .shld _ | .lhld _ => some 17
  | .push _ => some 11
  | .pop _ => some 10
  | .xthl => some 18
  | .sphl | .pchl => some 5
  | .jmp _ | .jc _ | .jnc _ | .jz _ | .jnz _ | .jp _ | .jm _ | .jpe _ | .jpo _ => some 10
  | .call _ => some 17
  | .cc _ | .cnc _ | .cz _ | .cnz _ | .cp _ | .cm _ | .cpe _ | .cpo _ => some (if i.taken f then 17 else 11)
  | .ret => some 10
  | .rc | .rnc | .rz | .rnz | .rp | .rm | .rpe | .rpo => some (if i.taken f then 11 else 5)
  | .rst _ => some 11
  | .inp _ | .out _ => some 10
  | .hlt => some 7
  | .unassigned08 | .unassigned10 | .unassigned18 | .unassigned20 | .unassigned28 | .unassigned30 | .unassigned38
  | .unassignedCB | .unassignedD9 | .unassignedDD | .unassignedED | .unassignedFD => none

/-- A legal `TIME_PERIOD` in nanoseconds: "from 480 nanosecs to 2 μ sec" (R380, `00_scope.md` R4). -/
def legalTimePeriod (nanoseconds : Rat) : Bool := 480 ≤ nanoseconds && nanoseconds ≤ 2000

/-- Instruction execution time in nanoseconds: the periods times the duration of one (R380). -/
def Instr.executionTime (i : Instr) (f : Flags) (nanoseconds : Rat) : Option Rat := (i.timePeriods f).map (· * nanoseconds)

end Sys2Proof
end

