-- ==== Sys2Proof/Safety.lean ====
section
/-! DEFINITION. The terms claims are stated in: the runs of the machine and how they end (`60_exceptions.md` R352), the launch
premises (`70_reset_and_hazards.md` R383), and what "unchanged" means for each part of the state. -/

namespace Sys2Proof.Machine

/-! ## Runs (`60_exceptions.md` R352) -/

/-- The state after `k` steps from `s`, where `k` steps can be taken. -/
def State.after (s : State) : Nat → Option State
  | 0 => some s
  | k + 1 =>
    match s.after k with
    | some t =>
      match step t with
      | .next u => some u
      | .fault _ | .refused _ => none
    | none => none

/-- The run is over: STOPPED with INTE = 0, "no step is enabled and none ever will be" (R352). -/
def State.isFinal (s : State) : Bool := s.run == .stopped && !s.inte

/-- A wait: STOPPED with INTE = 1 and no request at this boundary, "not an end: a hold that a request ends" (R352, R347). -/
def State.isWaiting (s : State) : Bool := s.run == .stopped && s.inte && s.irqNow == none

/-- The step accepts a request (R345). -/
def State.isAccepting (s : State) : Bool := s.inte && s.irqNow != none

/-- The step at this state is refused: "the run is marked and no claim about it holds" (R352). -/
def State.isRefused (s : State) : Prop := ∃ r, step s = .refused r

/-- The instruction the step at this state executes: the one a device supplies, or the one at `pc`; none where the machine
waits, is over, or refuses the device's instruction. -/
def State.executes (s : State) : Option Instr :=
  match s.irqNow, s.inte, s.run with
  | some op, true, _ => if admitted op then some (decodeBytes op 0#8 0#8) else none
  | _, _, .running => some (fetch s.nextBoundary).1
  | _, _, .stopped => none

/-- The instruction the `k`-th step of the run from `s` executes. -/
def State.executesAt (s : State) (k : Nat) : Option Instr := (s.after k).bind State.executes

/-- Some step of the run before the `k`-th executes an instruction with the property. -/
def State.earlier (s : State) (k : Nat) (property : Instr → Prop) : Prop :=
  ∃ j, j < k ∧ ∃ i, s.executesAt j = some i ∧ property i

/-- A run that is never refused: the runs claims are about. -/
def State.neverRefused (s : State) : Prop := ∀ k t, s.after k = some t → ¬ t.isRefused

/-! ## Launch premises (`70_reset_and_hazards.md` R383) -/

/-- `P_LOADED`: memory holds the program's bytes where its assembly puts them and `pc` is at its first instruction. -/
def premiseLoaded (program : List (Word × Byte)) (start : Word) (s : State) : Prop :=
  s.pc = start ∧ ∀ x ∈ program, s.mem.lookup x.1.toNat = some x.2

/-- `P_MEMKIND`: every byte the run stores into, and every stack byte it uses, is RW; every byte it fetches or loads is RW
or RO. -/
def premiseMemKind (s : State) : Prop :=
  ∀ k t i, s.after k = some t → t.executes = some i →
    (∀ adr ∈ i.storedBytes t, t.kind adr = .rw) ∧
    (∀ adr ∈ i.loadedBytes t, t.kind adr ≠ .absent ∧ (i.usesStack = true → t.kind adr = .rw)) ∧
    (t.isAccepting = false → ∀ adr ∈ t.fetchedBytes, t.kind adr ≠ .absent)

/-- `P_STACK`: the run "loads SP before its first stack operation and before EI". A conditional call or return that is not taken
is no stack operation. -/
def premiseStack (s : State) : Prop :=
  ∀ k t i, s.after k = some t → t.executes = some i → i.stackOperation t.flags = true ∨ i = .ei →
    s.earlier k (fun j => j.loadsSp = true)

/-- `P_INIT`: the run "reads no register or condition bit before writing it", XRA A and SUB A not counting as reads of A. -/
def premiseInit (s : State) : Prop :=
  ∀ k t i, s.after k = some t → t.executes = some i →
    (∀ r ∈ i.regsRead, s.earlier k (fun j => r ∈ j.regsWritten)) ∧
    (∀ f ∈ i.flagsRead, s.earlier k (fun j => f ∈ j.flagsWritten)) ∧
    (i.readsSp t.flags = true → s.earlier k (fun j => j.loadsSp = true))

/-- `P_DECODE`: every byte reached as a first byte is one of the 244 assigned values. -/
def premiseDecode (s : State) : Prop := ∀ k i, s.executesAt k = some i → i.assigned = true

/-- `P_IRQ` in its common form: INTE stays 0, so the draws are irrelevant. -/
def premiseNoInterrupts (s : State) : Prop := ∀ k t, s.after k = some t → t.inte = false

/-- What a program needs of a state in which it is interrupted: the registers, the condition bits and the bytes of memory whose
contents it goes on to use (`60_exceptions.md` R349). -/
structure Needs where
  regs : List Reg
  flags : List Flag
  bytes : Word → Prop

/-- Everything needed in `t` is in `u` what it was in `t`. -/
def Needs.preserved (needs : Needs) (t u : State) : Prop :=
  (∀ r ∈ needs.regs, u.regs.get r = t.regs.get r) ∧ (∀ f ∈ needs.flags, u.flags.get f = t.flags.get f) ∧
    ∀ adr, needs.bytes adr → u.mem.read adr = t.mem.read adr

/-- `u` is back where `t` was interrupted: the return address is in `pc` and the stack is as deep as it was
(`60_exceptions.md` R344, R350). -/
def State.resumedAt (u t : State) : Prop := u.pc = t.pc ∧ u.sp = t.sp

/-- The interrupt the step at `t` accepts is handled: the run from `t` comes back to the interrupted program, and what that
needs is preserved when it first does (`60_exceptions.md` R349, R350). -/
def State.handled (t : State) (needs : Needs) : Prop :=
  ∃ m u, 0 < m ∧ t.after m = some u ∧ u.resumedAt t ∧ needs.preserved t u ∧
    ∀ j v, 0 < j → j < m → t.after j = some v → ¬ v.resumedAt t

/-- Every request carries an RST. -/
def onlyRst (s : State) : Prop := ∀ op, some op ∈ s.irq → op &&& 0xC7#8 = 0xC7#8

/-- `P_IRQ` in its other form: "every request carries an RST n for which P has a handler that preserves what P needs", `needs`
saying what it needs in each state in which it may be interrupted. -/
def premiseHandlers (needs : State → Needs) (s : State) : Prop :=
  onlyRst s ∧ ∀ k t, s.after k = some t → t.isAccepting = true → t.handled (needs t)

/-- `P_INPUT` for a run that assumes these bytes: the first IN reads the first of them, and so on. -/
def premiseInput (bytes : List Byte) (s : State) : Prop := s.inCount = 0 ∧ bytes <+: s.inputs

/-! ## Unchanged parts of the state -/

/-- Every register but those listed holds what it held. -/
def sameRegsBut (written : List Reg) (s t : State) : Prop := ∀ r, r ∉ written → t.regs.get r = s.regs.get r

/-- Every condition bit but those listed is what it was. -/
def sameFlagsBut (written : List Flag) (s t : State) : Prop := ∀ f, f ∉ written → t.flags.get f = s.flags.get f

/-- Every byte of memory outside the listed addresses reads as it did. -/
def sameBytesBut (stored : List Word) (s t : State) : Prop := ∀ adr, adr ∉ stored → t.mem.read adr = s.mem.read adr

/-- What no instruction changes: the memory map, the boundary counter and the environment's schedules. -/
def sameEnvironment (s t : State) : Prop :=
  t.memMap = s.memMap ∧ t.boundary = s.boundary ∧ t.irq = s.irq ∧ t.inputs = s.inputs

/-- INTE, the run state and the devices as they were. -/
def sameControl (s t : State) : Prop :=
  t.inte = s.inte ∧ t.run = s.run ∧ t.outTrace = s.outTrace ∧ t.inCount = s.inCount

/-! ## Results in exact arithmetic -/

/-- An even number of 1 bits, counted (`10_state.md` R22). -/
def evenOnes (v : Byte) : Bool := (List.range 8).countP (fun i => v.getLsbD i) % 2 == 0

/-- The condition bits a result byte gives S, Z and P (`10_state.md` R23, R25, R26), with CY and AC as given. -/
def flagsOf (res : Byte) (cy ac : Bool) : Flags :=
  { cy := cy, ac := ac, s := decide (128 ≤ res.toNat), z := decide (res.toNat = 0), p := evenOnes res }

/-- The state after data bytes at these addresses have been read: the same, but for the free values used up. -/
def State.afterLoads (s : State) (addresses : List Word) : State :=
  { s with absentReads := s.absentReads + s.absentAmong addresses }

/-- The byte a data read of an address gives when `n` free values have been used up before it: the byte of memory, or at an
ABSENT address the `n`-th free value (`20_memory.md` R44, R41). -/
def State.dataByte (s : State) (n : Nat) (adr : Word) : Byte :=
  if s.kind adr = .absent then Config.absentByte n else s.mem.read adr

/-- The byte a data read of an address gives now. -/
def State.byteAt (s : State) (adr : Word) : Byte := s.dataByte s.absentReads adr

/-- The byte a 16-bit read gives from its second address, after its first has been read (`20_memory.md` R47). -/
def State.byteAfter (s : State) (adr : Word) : Byte :=
  s.dataByte (s.absentReads + s.absentAmong [adr]) (adr + 1#16)

/-- The byte an address holds after a store of `v` there was asked for in `s`: `v` in read/write memory, what it held
elsewhere (`20_memory.md` R45). -/
def State.stored (s : State) (adr : Word) (v : Byte) : Byte := if s.kind adr = .rw then v else s.mem.read adr

/-! ## Results of the instruction families -/

/-- `i` adds: A takes the low 8 bits of the exact sum, CY its carry out of bit 7, AC the carry out of bit 3, and nothing else
differs from `u` (`42_accumulator_alu.md` R131). -/
def adds (i : Instr) (s u : State) (x y c : Nat) : Prop :=
  ∃ res : Byte, res.toNat = (x + y + c) % 256 ∧
    exec i s = .next { u with
      regs := { s.regs with a := res },
      flags := flagsOf res (decide (x + y + c > 255)) (decide (x % 16 + y % 16 + c > 15)) }

/-- The condition bits of a subtraction with result `res`: CY is the borrow, AC is reset on a borrow from bit 4
(`42_accumulator_alu.md` R132). -/
def borrowFlags (res : Byte) (x y b : Nat) : Flags :=
  flagsOf res (decide (x < y + b)) (decide (y % 16 + b ≤ x % 16))

/-- `i` subtracts: A takes the exact difference modulo 256 and nothing else differs from `u`
(`42_accumulator_alu.md` R132). -/
def subtracts (i : Instr) (s u : State) (x y b : Nat) : Prop :=
  ∃ res : Byte, res.toNat = (x + 256 - y - b) % 256 ∧
    exec i s = .next { u with regs := { s.regs with a := res }, flags := borrowFlags res x y b }

/-- `i` compares: the condition bits of the subtraction, and A is not written (`42_accumulator_alu.md` R141). -/
def compares (i : Instr) (s u : State) (x y : Nat) : Prop :=
  ∃ res : Byte, res.toNat = (x + 256 - y) % 256 ∧ exec i s = .next { u with flags := borrowFlags res x y 0 }

/-- `i` combines A with a byte bit by bit: CY is reset, AC is as it was, and nothing else differs from `u`
(`42_accumulator_alu.md` R137; log 25). -/
def combines (op : Bool → Bool → Bool) (i : Instr) (s u : State) (v : Byte) : Prop :=
  ∃ res : Byte, (∀ k, k < 8 → res.getLsbD k = op (s.regs.a.getLsbD k) (v.getLsbD k)) ∧
    exec i s = .next { u with regs := { s.regs with a := res }, flags := flagsOf res false s.flags.ac }

/-- `i` leaves the byte `w` in the operand `r`, the condition bits `f`, and nothing else changed but the free values its reads
of `loads` use up: a register takes the byte; M is the byte at H:L, the one address stored to. -/
def writesOperand (i : Instr) (s : State) (r : R8) (w : Byte) (f : Flags) (loads : List Word) : Prop :=
  ∃ t, exec i s = .next t ∧
    (r ≠ .m → t.operand r = w) ∧ (r = .m → t.mem.read s.hl = s.stored s.hl w) ∧
    sameRegsBut r.written s t ∧ sameBytesBut (r.bytes s) s t ∧
    t = { s with
      regs := t.regs, mem := t.mem, flags := f, absentReads := s.absentReads + s.absentAmong loads }

/-- `i` stores one byte at the address and changes nothing else. -/
def storesByte (i : Instr) (s : State) (adr : Word) (v : Byte) : Prop :=
  ∃ t, exec i s = .next t ∧ t.mem.read adr = s.stored adr v ∧ sameBytesBut [adr] s t ∧ t = { s with mem := t.mem }

/-- `i` pushes: `first` at SP-1, `second` at SP-2, SP two less, the program counter as given, and nothing else
(`20_memory.md` R50). -/
def pushes (i : Instr) (s : State) (first second : Byte) (pc : Word) : Prop :=
  ∃ t, exec i s = .next t ∧
    t.mem.read (s.sp - 1#16) = s.stored (s.sp - 1#16) first ∧
    t.mem.read (s.sp - 2#16) = s.stored (s.sp - 2#16) second ∧
    sameBytesBut [s.sp - 1#16, s.sp - 2#16] s t ∧
    t = { s with sp := s.sp - 2#16, pc := pc, mem := t.mem }

/-- `i` calls: the address after it is pushed, high byte first, and control goes to the target
(`47_jump_call_return_rst.md` R220). -/
def calls (i : Instr) (s : State) (target : Word) : Prop :=
  pushes i s (BitVec.ofNat 8 (s.pc.toNat / 256)) (BitVec.ofNat 8 s.pc.toNat) target

/-- `i` returns: the two bytes at SP and SP+1 are the new program counter, low byte first, and SP is two more
(`47_jump_call_return_rst.md` R230). -/
def returns (i : Instr) (s : State) : Prop :=
  exec i s = .next { s.afterLoads [s.sp, s.sp + 1#16] with
    pc := s.byteAfter s.sp ++ s.byteAt s.sp, sp := s.sp + 2#16 }

/-- A byte's two decimal digits (`40_carry_single_register_nop.md` R105). -/
def decimalValue (v : Byte) : Nat := v.toNat / 16 * 10 + v.toNat % 16

/-- Both hexadecimal digits of the byte are decimal digits. -/
def isDecimal (v : Byte) : Prop := v.toNat / 16 < 10 ∧ v.toNat % 16 < 10

end Sys2Proof.Machine
end

