-- ==== Sys2Proof/Certificates/Slice0/Obligations.lean ====
section
/-! DEFINITION. The statements for the provers. Each is about the machine, for every state its hypotheses admit. The helper
predicates are those of `Sys2Proof/Safety.lean` (results in exact arithmetic) and `Sys2Proof/Machine/Effects.lean` (what an
instruction may touch). -/

open Sys2Proof Sys2Proof.Machine

/-! ## Encoding -/

/-- Every well-formed instruction, with every operand, is what its encoding decodes to, whatever follows it
(`30_encoding.md` R70, R88, R92). -/
def Obligations.DecodeInvertsEncode : Prop :=
  ∀ (i : Instr) (rest : List Byte), i.wellFormed = true → decode (encode i ++ rest) = .ok (i, rest)

/-- Whatever decodes is well-formed and its encoding is the bytes it was decoded from: no bit of the bytes is dropped
(`30_encoding.md` R70, R92, R93). -/
def Obligations.EncodeInvertsDecode : Prop :=
  ∀ (bytes rest : List Byte) (i : Instr),
    decode bytes = .ok (i, rest) → i.wellFormed = true ∧ encode i ++ rest = bytes

/-- Each of the 256 first bytes selects exactly one row of the opcode table, and the decoder answers that row whatever the
second and third bytes are (`30_encoding.md` R88, R92). -/
def Obligations.EveryFirstByteSelectsOneRow : Prop :=
  ∀ op b2 b3 : Byte, (opcodeTable.filter (fun row => row.selects op)).map (fun row => row.mnemonic) =
    [(decodeBytes op b2 b3).mnemonic]

/-- The length of what is decoded is fixed by the first byte: three for the 26 first bytes listed, two for the 18 listed, one
for every other (`30_encoding.md` R71; for the twelve unassigned bytes one is the model's choice, log 29). -/
def Obligations.FirstByteFixesLength : Prop :=
  ∀ op b2 b3 : Byte, (encode (decodeBytes op b2 b3)).length =
    if op ∈ [0x01#8, 0x11#8, 0x21#8, 0x31#8, 0x22#8, 0x2A#8, 0x32#8, 0x3A#8, 0xC2#8, 0xCA#8, 0xD2#8, 0xDA#8, 0xE2#8,
        0xEA#8, 0xF2#8, 0xFA#8, 0xC3#8, 0xC4#8, 0xCC#8, 0xD4#8, 0xDC#8, 0xE4#8, 0xEC#8, 0xF4#8, 0xFC#8, 0xCD#8] then 3
    else if op ∈ [0x06#8, 0x0E#8, 0x16#8, 0x1E#8, 0x26#8, 0x2E#8, 0x36#8, 0x3E#8, 0xC6#8, 0xCE#8, 0xD6#8, 0xDE#8, 0xE6#8,
        0xEE#8, 0xF6#8, 0xFE#8, 0xD3#8, 0xDB#8] then 2
    else 1

/-- A few of the statements the source prints with their assembled bytes (`30_encoding.md` R95), one or more of each
format: LHLD 40C0H, JMP 3C03H, MVI M,0FFH, ADI -66, MOV A,C, XRA A, RLC, PCHL, RAR, JNC. -/
def Obligations.DecodedWords : Prop :=
  decodeTableWord 24 0x40C02A = some (.lhld 0x40C0#16) ∧ decodeTableWord 24 0x3C03C3 = some (.jmp 0x3C03#16) ∧
    decodeTableWord 16 0xFF36 = some (.mvi .m 0xFF#8) ∧ decodeTableWord 16 0xBEC6 = some (.adi 0xBE#8) ∧
    decodeTableWord 8 0x79 = some (.mov .a .c) ∧ decodeTableWord 8 0xAF = some (.xra .a) ∧
    decodeTableWord 8 0x07 = some .rlc ∧ decodeTableWord 8 0xE9 = some .pchl ∧ decodeTableWord 8 0x1F = some .rar ∧
    decodeTableWord 24 0x1234D2 = some (.jnc 0x1234#16)

/-! ## The step and the fetch -/

/-- A step runs the decoded instruction: RUNNING, with no request that can be accepted, the step is `exec` of the instruction the
bytes at `pc` decode to, with `pc` advanced past its bytes and one more boundary counted (`10_state.md` R15, R16). The bytes
the instruction is fetched from are there; the other two may be anything. -/
def Obligations.StepRunsDecodedInstruction : Prop :=
  ∀ (s : State) (i : Instr) (rest : List Byte),
    s.run = .running → (s.irqNow = none ∨ s.inte = false) →
    (∀ adr ∈ s.fetchedBytes, s.kind adr ≠ .absent) →
    decode [s.mem.read s.pc, s.mem.read (s.pc + 1#16), s.mem.read (s.pc + 2#16)] = .ok (i, rest) →
    step s = exec i { s with boundary := s.boundary + 1, pc := s.pc + BitVec.ofNat 16 (encode i).length }

/-- A fetch reads the bytes at `pc`, `pc + 1` and `pc + 2` modulo 2^16, as many as the instruction has: the instruction is what
they decode to, an ABSENT address giving the next free value (the bytes past the instruction's length take no part). It
changes nothing but the program counter, which moves past the bytes fetched, and takes one free value for each ABSENT one
(`10_state.md` R15, R17, `20_memory.md` R41, R44; the free values are log 8). -/
def Obligations.FetchReadsItsBytes : Prop :=
  ∀ s : State,
    let after := fun (addresses : List Word) => s.absentReads + s.absentAmong addresses
    (∃ rest, decode [s.byteAt s.pc, s.dataByte (after [s.pc]) (s.pc + 1#16),
        s.dataByte (after [s.pc, s.pc + 1#16]) (s.pc + 2#16)] = .ok ((fetch s).1, rest)) ∧
    (fetch s).2 = { s with
      pc := s.pc + BitVec.ofNat 16 s.fetchedBytes.length, absentReads := after s.fetchedBytes }

/-! ## Carry bit, single register, NOP -/

/-- STC sets the carry bit, CMC complements it; no other bit, register or byte changes. Their encodings and time periods
(`40_carry_single_register_nop.md` R100, R101). -/
def Obligations.CarryInstructions : Prop :=
  ∀ s : State,
    exec .stc s = .next { s with flags := { s.flags with cy := true } } ∧
    exec .cmc s = .next { s with flags := { s.flags with cy := !s.flags.cy } } ∧
    encode .stc = [0x37#8] ∧ encode .cmc = [0x3F#8] ∧
    Instr.stc.timePeriods s.flags = some 4 ∧ Instr.cmc.timePeriods s.flags = some 4

/-- CMA complements each bit of A and writes no condition bit; NOP changes nothing
(`40_carry_single_register_nop.md` R104, R106). -/
def Obligations.ComplementAndNop : Prop :=
  ∀ s : State,
    (∃ res : Byte, (∀ k, k < 8 → res.getLsbD k = !s.regs.a.getLsbD k) ∧
      exec .cma s = .next { s with regs := { s.regs with a := res } }) ∧
    exec .nop s = .next s

/-- INR adds one to a register or to the byte at H:L, modulo 256, and sets Z, S, P and AC; CY and everything else are as they
were (`40_carry_single_register_nop.md` R102; that AC is the carry out of bit 3 is D17, log 22). -/
def Obligations.IncrementOperand : Prop :=
  ∀ (s : State) (r : R8),
    let w : Byte := BitVec.ofNat 8 ((s.operand r).toNat + 1)
    writesOperand (.inr r) s r w (flagsOf w s.flags.cy (decide ((s.operand r).toNat % 16 = 15))) (r.bytes s)

/-- DCR takes one from a register or from the byte at H:L, modulo 256, and sets Z, S, P and AC; CY and everything else are as
they were (`40_carry_single_register_nop.md` R103; AC is D17, log 22). -/
def Obligations.DecrementOperand : Prop :=
  ∀ (s : State) (r : R8),
    let w : Byte := BitVec.ofNat 8 ((s.operand r).toNat + 255)
    writesOperand (.dcr r) s r w (flagsOf w s.flags.cy (decide ((s.operand r).toNat % 16 ≠ 0))) (r.bytes s)

/-- DAA's two steps in exact arithmetic: six is added where the low digit is above 9 or AC is set; then, on what that left and
with the carry of that addition in CY, six is added to the high digit where it is above 9 or CY is set
(`40_carry_single_register_nop.md` R105; the carry of the first step is D15, log 20). -/
def Obligations.DecimalAdjust : Prop :=
  ∀ s : State,
    let a := s.regs.a.toNat
    let six := a % 16 > 9 ∨ s.flags.ac = true
    let a1 := if six then a + 6 else a
    let cy1 := s.flags.cy = true ∨ a1 > 255
    let sixty := a1 % 256 / 16 > 9 ∨ cy1
    let hi := if sixty then a1 % 256 / 16 + 6 else a1 % 256 / 16
    ∃ res : Byte, res.toNat = hi % 16 * 16 + a1 % 16 ∧
      exec .daa s = .next { s with
        regs := { s.regs with a := res },
        flags := flagsOf res (decide (cy1 ∨ hi > 15)) (decide (s.flags.ac = true ∨ six ∧ a % 16 + 6 > 15)) }

/-- Decimal addition: ADC of two bytes of decimal digits and then DAA leaves the two low decimal digits of the sum and the
carry bit set exactly for a sum of 100 or more, whatever the operand's place; in particular the carry chains multi-digit sums
(`40_carry_single_register_nop.md` R105, `42_accumulator_alu.md` R134). -/
def Obligations.DecimalAddition : Prop :=
  ∀ (s : State) (r : R8), isDecimal s.regs.a → isDecimal (s.operand r) →
    ∃ t u, exec (.adc r) s = .next t ∧ exec .daa t = .next u ∧ isDecimal u.regs.a ∧
      decimalValue u.regs.a = (decimalValue s.regs.a + decimalValue (s.operand r) + s.flags.cy.toNat) % 100 ∧
      u.flags.cy = decide (decimalValue s.regs.a + decimalValue (s.operand r) + s.flags.cy.toNat ≥ 100)

/-! ## Data transfer -/

/-- MOV copies the source, a register or the byte at H:L, to the destination, a register or the byte at H:L of before, for every
pair but M,M; no condition bit changes (`41_data_transfer.md` R120). -/
def Obligations.MoveOperand : Prop :=
  ∀ (s : State) (dst src : R8), ¬ (dst = .m ∧ src = .m) →
    writesOperand (.mov dst src) s dst (s.operand src) s.flags (src.bytes s)

/-- MOV M,M, which no byte encodes, is refused by name (`30_encoding.md` R84, `41_data_transfer.md` R120; log 26). -/
def Obligations.MoveMemoryToMemory : Prop :=
  (∀ s : State, exec (.mov .m .m) s = .refused .movMM) ∧
    ∀ (bytes rest : List Byte), decode bytes ≠ .ok (.mov .m .m, rest)

/-- STAX stores A at B:C or D:E, STA at the address in the instruction; the byte is stored in read/write memory, and nothing
else changes (`41_data_transfer.md` R121, `46_direct_addressing.md` R200, `20_memory.md` R45). -/
def Obligations.StoreAccumulator : Prop :=
  ∀ (s : State) (adr : Word),
    storesByte (.stax .b) s (s.regs.b ++ s.regs.c) s.regs.a ∧ storesByte (.stax .d) s (s.regs.d ++ s.regs.e) s.regs.a ∧
      storesByte (.sta adr) s adr s.regs.a

/-- LDAX loads A from B:C or D:E, LDA from the address in the instruction: the byte of memory, or a free value where there is no
memory; no condition bit changes (`41_data_transfer.md` R122, `46_direct_addressing.md` R201, `20_memory.md` R44). -/
def Obligations.LoadAccumulator : Prop :=
  ∀ (s : State) (adr : Word),
    exec (.ldax .b) s = .next { s.afterLoads [s.regs.b ++ s.regs.c] with
      regs := { s.regs with a := s.byteAt (s.regs.b ++ s.regs.c) } } ∧
    exec (.ldax .d) s = .next { s.afterLoads [s.regs.d ++ s.regs.e] with
      regs := { s.regs with a := s.byteAt (s.regs.d ++ s.regs.e) } } ∧
    exec (.lda adr) s = .next { s.afterLoads [adr] with regs := { s.regs with a := s.byteAt adr } }

/-- SHLD stores L at the address and H at the next one modulo 2^16, LHLD loads them from there; nothing else changes
(`46_direct_addressing.md` R202, R203, `20_memory.md` R46, R47). -/
def Obligations.DirectHL : Prop :=
  ∀ (s : State) (adr : Word),
    (∃ t, exec (.shld adr) s = .next t ∧
      t.mem.read adr = s.stored adr s.regs.l ∧ t.mem.read (adr + 1#16) = s.stored (adr + 1#16) s.regs.h ∧
      sameBytesBut [adr, adr + 1#16] s t ∧ t = { s with mem := t.mem }) ∧
    exec (.lhld adr) s = .next { s.afterLoads [adr, adr + 1#16] with
      regs := { s.regs with h := s.byteAfter adr, l := s.byteAt adr } }

/-! ## Arithmetic and logic -/

/-- ADD and ADC with a register or the byte at H:L: A takes the exact sum modulo 256, ADC's with the carry bit of before; all
five condition bits are set; nothing else changes (`42_accumulator_alu.md` R131, R133, R134). -/
def Obligations.AddOperand : Prop :=
  ∀ (s : State) (r : R8),
    adds (.add r) s (s.afterLoads (r.bytes s)) s.regs.a.toNat (s.operand r).toNat 0 ∧
    adds (.adc r) s (s.afterLoads (r.bytes s)) s.regs.a.toNat (s.operand r).toNat s.flags.cy.toNat

/-- SUB and SBB with a register or the byte at H:L: A takes the exact difference modulo 256, CY the borrow, AC the complement of
the borrow from bit 4 (`42_accumulator_alu.md` R132, R135, R136; the form of the subtraction is D16, log 21). -/
def Obligations.SubtractOperand : Prop :=
  ∀ (s : State) (r : R8),
    subtracts (.sub r) s (s.afterLoads (r.bytes s)) s.regs.a.toNat (s.operand r).toNat 0 ∧
    subtracts (.sbb r) s (s.afterLoads (r.bytes s)) s.regs.a.toNat (s.operand r).toNat s.flags.cy.toNat

/-- CMP and CPI set the condition bits of the subtraction and write no register (`42_accumulator_alu.md` R141,
`45_immediate.md` R189; D16, log 21). -/
def Obligations.CompareOperand : Prop :=
  ∀ (s : State) (r : R8) (data : Byte),
    compares (.cmp r) s (s.afterLoads (r.bytes s)) s.regs.a.toNat (s.operand r).toNat ∧
    compares (.cpi data) s s s.regs.a.toNat data.toNat

/-- ANA, XRA and ORA with a register or the byte at H:L: bit by bit, CY reset, S, Z and P from the result, AC as it was
(`42_accumulator_alu.md` R137 to R140; that AC stays is the spec's reading, U5, log 25). -/
def Obligations.LogicalOperand : Prop :=
  ∀ (s : State) (r : R8),
    combines and (.ana r) s (s.afterLoads (r.bytes s)) (s.operand r) ∧
    combines xor (.xra r) s (s.afterLoads (r.bytes s)) (s.operand r) ∧
    combines or (.ora r) s (s.afterLoads (r.bytes s)) (s.operand r)

/-- ADI, ACI, SUI, SBI, ANI, XRI and ORI: the same sums, differences and combinations with the byte in the instruction
(`45_immediate.md` R182 to R188; D16, log 21; U5, log 25). -/
def Obligations.ImmediateOperand : Prop :=
  ∀ (s : State) (data : Byte),
    adds (.adi data) s s s.regs.a.toNat data.toNat 0 ∧
    adds (.aci data) s s s.regs.a.toNat data.toNat s.flags.cy.toNat ∧
    subtracts (.sui data) s s s.regs.a.toNat data.toNat 0 ∧
    subtracts (.sbi data) s s s.regs.a.toNat data.toNat s.flags.cy.toNat ∧
    combines and (.ani data) s s data ∧ combines xor (.xri data) s s data ∧ combines or (.ori data) s s data

/-- MVI puts its byte in a register or in the byte at H:L; LXI puts its 16 bits in a pair, high byte in the first register, or
in SP; no condition bit changes (`45_immediate.md` R180, R181). -/
def Obligations.LoadImmediate : Prop :=
  ∀ (s : State) (r : R8) (data : Byte) (hi lo : Byte),
    writesOperand (.mvi r data) s r data s.flags [] ∧
    exec (.lxi .b (hi ++ lo)) s = .next { s with regs := { s.regs with b := hi, c := lo } } ∧
    exec (.lxi .d (hi ++ lo)) s = .next { s with regs := { s.regs with d := hi, e := lo } } ∧
    exec (.lxi .h (hi ++ lo)) s = .next { s with regs := { s.regs with h := hi, l := lo } } ∧
    exec (.lxi .sp (hi ++ lo)) s = .next { s with sp := hi ++ lo }

/-! ## Rotates -/

/-- The four rotates in exact arithmetic: RLC and RRC turn the eight bits of A, RAL and RAR the nine bits of A and CY; CY takes
the bit that leaves A and no other condition bit changes. Their encodings and time periods (`43_rotate.md` R150 to R153). -/
def Obligations.RotateAccumulator : Prop :=
  ∀ s : State,
    let a := s.regs.a.toNat
    let turned := fun (i : Instr) (n : Nat) (c : Bool) => ∃ res : Byte, res.toNat = n ∧
      exec i s = .next { s with regs := { s.regs with a := res }, flags := { s.flags with cy := c } }
    turned .rlc (2 * a % 256 + a / 128) (decide (a ≥ 128)) ∧
    turned .rrc (a / 2 + 128 * (a % 2)) (decide (a % 2 = 1)) ∧
    turned .ral (2 * a % 256 + s.flags.cy.toNat) (decide (a ≥ 128)) ∧
    turned .rar (a / 2 + 128 * s.flags.cy.toNat) (decide (a % 2 = 1)) ∧
    encode .rlc = [0x07#8] ∧ encode .rrc = [0x0F#8] ∧ encode .ral = [0x17#8] ∧ encode .rar = [0x1F#8] ∧
    ∀ i ∈ [Instr.rlc, .rrc, .ral, .rar], i.timePeriods s.flags = some 4

/-- RAR undoes RAL and RAL undoes RAR: the state after both is the state before, whole (`43_rotate.md` R152, R153). -/
def Obligations.RotatesThroughCarryUndo : Prop :=
  ∀ s : State,
    (∃ t, exec .ral s = .next t ∧ exec .rar t = .next s) ∧ (∃ t, exec .rar s = .next t ∧ exec .ral t = .next s)

/-! ## Register pairs and the stack -/

/-- PUSH stores the first register of the pair at SP-1 and the second at SP-2, or for PSW the byte S Z 0 AC 0 P 1 CY and A,
takes two from SP, all modulo 2^16, and changes nothing else (`44_register_pair.md` R160, `20_memory.md` R50; the places of
the condition bits are D9, log 13). -/
def Obligations.PushPair : Prop :=
  ∀ s : State,
    let f : Byte := BitVec.ofNat 8 (128 * s.flags.s.toNat + 64 * s.flags.z.toNat + 16 * s.flags.ac.toNat +
      4 * s.flags.p.toNat + 2 + s.flags.cy.toNat)
    pushes (.push .b) s s.regs.b s.regs.c s.pc ∧ pushes (.push .d) s s.regs.d s.regs.e s.pc ∧
      pushes (.push .h) s s.regs.h s.regs.l s.pc ∧ pushes (.push .psw) s f s.regs.a s.pc

/-- POP loads the second register of the pair from SP and the first from SP+1, or A and the five condition bits, adds two to SP,
all modulo 2^16, and changes nothing else (`44_register_pair.md` R161, `20_memory.md` R51; D9, log 13). -/
def Obligations.PopPair : Prop :=
  ∀ s : State,
    let lo := s.byteAt s.sp
    let hi := s.byteAfter s.sp
    let u := { s.afterLoads [s.sp, s.sp + 1#16] with sp := s.sp + 2#16 }
    exec (.pop .b) s = .next { u with regs := { s.regs with b := hi, c := lo } } ∧
    exec (.pop .d) s = .next { u with regs := { s.regs with d := hi, e := lo } } ∧
    exec (.pop .h) s = .next { u with regs := { s.regs with h := hi, l := lo } } ∧
    exec (.pop .psw) s = .next { u with
      regs := { s.regs with a := lo },
      flags := { s := decide (hi.toNat / 128 % 2 = 1), z := decide (hi.toNat / 64 % 2 = 1),
                 ac := decide (hi.toNat / 16 % 2 = 1), p := decide (hi.toNat / 4 % 2 = 1),
                 cy := decide (hi.toNat % 2 = 1) } }

/-- A POP undoes a PUSH of the same pair: every register, condition bit and SP is as before and memory differs only by the two
bytes pushed, where the stack is in read/write memory (`44_register_pair.md` R160, R161). -/
def Obligations.PopUndoesPush : Prop :=
  ∀ (s : State) (rp : StackPair), s.kind (s.sp - 1#16) = .rw → s.kind (s.sp - 2#16) = .rw →
    ∃ t, exec (.push rp) s = .next t ∧ sameBytesBut [s.sp - 1#16, s.sp - 2#16] s t ∧
      exec (.pop rp) t = .next { s with mem := t.mem }

/-- DAD adds a pair or SP to H:L: H:L takes the sum modulo 2^16, CY its carry out of bit 15, and nothing else changes
(`44_register_pair.md` R163). -/
def Obligations.AddPair : Prop :=
  ∀ (s : State),
    let hl := (s.regs.h ++ s.regs.l : Word).toNat
    let added := fun (rp : RegPair) (v : Word) => ∃ h l : Byte, (h ++ l : Word).toNat = (hl + v.toNat) % 65536 ∧
      exec (.dad rp) s = .next { s with
        regs := { s.regs with h := h, l := l }, flags := { s.flags with cy := decide (hl + v.toNat > 65535) } }
    added .b (s.regs.b ++ s.regs.c) ∧ added .d (s.regs.d ++ s.regs.e) ∧ added .h (s.regs.h ++ s.regs.l) ∧ added .sp s.sp

/-- INX and DCX change a pair or SP by one modulo 2^16 and no condition bit. Their encodings and time periods
(`44_register_pair.md` R164, R165). -/
def Obligations.CountPair : Prop :=
  ∀ s : State,
    let counted := fun (i : RegPair → Instr) (n : Nat) =>
      (∃ x y : Byte, (x ++ y : Word).toNat = ((s.regs.b ++ s.regs.c : Word).toNat + n) % 65536 ∧
        exec (i .b) s = .next { s with regs := { s.regs with b := x, c := y } }) ∧
      (∃ x y : Byte, (x ++ y : Word).toNat = ((s.regs.d ++ s.regs.e : Word).toNat + n) % 65536 ∧
        exec (i .d) s = .next { s with regs := { s.regs with d := x, e := y } }) ∧
      (∃ x y : Byte, (x ++ y : Word).toNat = ((s.regs.h ++ s.regs.l : Word).toNat + n) % 65536 ∧
        exec (i .h) s = .next { s with regs := { s.regs with h := x, l := y } }) ∧
      (∃ w : Word, w.toNat = (s.sp.toNat + n) % 65536 ∧ exec (i .sp) s = .next { s with sp := w }) ∧
      ∀ rp, (i rp).timePeriods s.flags = some 5
    counted .inx 1 ∧ counted .dcx 65535 ∧
    encode (.inx .b) = [0x03#8] ∧ encode (.inx .d) = [0x13#8] ∧ encode (.inx .h) = [0x23#8] ∧
    encode (.inx .sp) = [0x33#8] ∧ encode (.dcx .b) = [0x0B#8] ∧ encode (.dcx .d) = [0x1B#8] ∧
    encode (.dcx .h) = [0x2B#8] ∧ encode (.dcx .sp) = [0x3B#8]

/-- XCHG exchanges H:L with D:E, SPHL copies H:L to SP; nothing else changes. Their encodings and time periods
(`44_register_pair.md` R166, R168). -/
def Obligations.ExchangeAndLoadSp : Prop :=
  ∀ s : State,
    exec .xchg s = .next { s with regs := { s.regs with h := s.regs.d, l := s.regs.e, d := s.regs.h, e := s.regs.l } } ∧
    exec .sphl s = .next { s with sp := s.regs.h ++ s.regs.l } ∧
    encode .xchg = [0xEB#8] ∧ encode .sphl = [0xF9#8] ∧
    Instr.xchg.timePeriods s.flags = some 4 ∧ Instr.sphl.timePeriods s.flags = some 5

/-- XTHL exchanges L with the byte at SP and H with the byte at SP+1 modulo 2^16; SP and everything else are as they were
(`44_register_pair.md` R167). -/
def Obligations.ExchangeStack : Prop :=
  ∀ s : State, ∃ t, exec .xthl s = .next t ∧
    t.regs = { s.regs with h := s.byteAfter s.sp, l := s.byteAt s.sp } ∧
    t.mem.read s.sp = s.stored s.sp s.regs.l ∧ t.mem.read (s.sp + 1#16) = s.stored (s.sp + 1#16) s.regs.h ∧
    sameBytesBut [s.sp, s.sp + 1#16] s t ∧
    t = { s.afterLoads [s.sp, s.sp + 1#16] with regs := t.regs, mem := t.mem }

/-! ## Jumps, calls, returns, RST -/

/-- PCHL, JMP and the eight conditional jumps: the program counter takes the address where the tested condition bit has the
value named, and otherwise stays the address of the next instruction; nothing else changes
(`47_jump_call_return_rst.md` R210 to R219, `10_state.md` R34). -/
def Obligations.Jumps : Prop :=
  ∀ (s : State) (adr : Word),
    exec .pchl s = .next { s with pc := s.regs.h ++ s.regs.l } ∧ exec (.jmp adr) s = .next { s with pc := adr } ∧
    ∀ x ∈ [(Instr.jc adr, s.flags.cy), (.jnc adr, !s.flags.cy), (.jz adr, s.flags.z), (.jnz adr, !s.flags.z),
        (.jm adr, s.flags.s), (.jp adr, !s.flags.s), (.jpe adr, s.flags.p), (.jpo adr, !s.flags.p)],
      exec x.1 s = .next { s with pc := if x.2 then adr else s.pc }

/-- CALL and the eight conditional calls: where the condition holds the address of the next instruction is pushed and control
goes to the address given; where it does not, nothing changes (`47_jump_call_return_rst.md` R220 to R229). -/
def Obligations.Calls : Prop :=
  ∀ (s : State) (adr : Word), calls (.call adr) s adr ∧
    ∀ x ∈ [(Instr.cc adr, s.flags.cy), (.cnc adr, !s.flags.cy), (.cz adr, s.flags.z), (.cnz adr, !s.flags.z),
        (.cm adr, s.flags.s), (.cp adr, !s.flags.s), (.cpe adr, s.flags.p), (.cpo adr, !s.flags.p)],
      if x.2 = true then calls x.1 s adr else exec x.1 s = .next s

/-- RET and the eight conditional returns: where the condition holds the program counter is popped; where it does not, nothing
changes (`47_jump_call_return_rst.md` R230 to R239). -/
def Obligations.Returns : Prop :=
  ∀ s : State, returns .ret s ∧
    ∀ x ∈ [(Instr.rc, s.flags.cy), (.rnc, !s.flags.cy), (.rz, s.flags.z), (.rnz, !s.flags.z),
        (.rm, s.flags.s), (.rp, !s.flags.s), (.rpe, s.flags.p), (.rpo, !s.flags.p)],
      if x.2 = true then returns x.1 s else exec x.1 s = .next s

/-- RST n calls the address 8n (`47_jump_call_return_rst.md` R241, `30_encoding.md` R78). -/
def Obligations.Restart : Prop :=
  ∀ (s : State) (n : BitVec 3), calls (.rst n) s (BitVec.ofNat 16 (8 * n.toNat))

/-- A RET undoes a CALL: control is at the instruction after the CALL, SP and everything else are as before, memory differs
only by the two bytes pushed, where the stack is in read/write memory (`47_jump_call_return_rst.md` R221, R231). -/
def Obligations.ReturnUndoesCall : Prop :=
  ∀ (s : State) (adr : Word), s.kind (s.sp - 1#16) = .rw → s.kind (s.sp - 2#16) = .rw →
    ∃ t, exec (.call adr) s = .next t ∧ sameBytesBut [s.sp - 1#16, s.sp - 2#16] s t ∧
      exec .ret t = .next { s with mem := t.mem }

/-! ## Interrupt flip-flop, input/output, halt -/

/-- EI sets INTE, DI resets it, HLT leaves the machine STOPPED; nothing else changes. The encodings and time periods of EI and DI
(`48_interrupt_io_halt.md` R260, R261, R265). -/
def Obligations.InterruptFlipFlopAndHalt : Prop :=
  ∀ s : State,
    exec .ei s = .next { s with inte := true } ∧ exec .di s = .next { s with inte := false } ∧
    exec .hlt s = .next { s with run := .stopped } ∧
    encode .ei = [0xFB#8] ∧ encode .di = [0xF3#8] ∧
    Instr.ei.timePeriods s.flags = some 4 ∧ Instr.di.timePeriods s.flags = some 4

/-- IN and OUT always complete. IN: A takes the byte the environment delivers to this IN, one more IN is counted, no condition
bit changes. OUT: the pair of device number and A joins the output trace and nothing else changes
(`48_interrupt_io_halt.md` R263, R264, `20_memory.md` R55, R56, D14; the schedule `inputs` and the free value behind it are the
model's form of the draw, log 19). -/
def Obligations.DeviceBytes : Prop :=
  ∀ (s : State) (dev : Byte),
    exec (.inp dev) s = .next { s with
      regs := { s.regs with a := (s.inputs[s.inCount]?).getD (Config.input dev s.inCount) }, inCount := s.inCount + 1 } ∧
    exec (.out dev) s = .next { s with outTrace := s.outTrace ++ [(dev, s.regs.a)] }

/-- Each of the twelve unassigned first bytes decodes to its row, and its row is refused in every state (`30_encoding.md` R91;
D8, log 12). -/
def Obligations.UnassignedRefused : Prop :=
  ∀ x ∈ [(0x08#8, Instr.unassigned08), (0x10#8, .unassigned10), (0x18#8, .unassigned18), (0x20#8, .unassigned20),
      (0x28#8, .unassigned28), (0x30#8, .unassigned30), (0x38#8, .unassigned38), (0xCB#8, .unassignedCB),
      (0xD9#8, .unassignedD9), (0xDD#8, .unassignedDD), (0xED#8, .unassignedED), (0xFD#8, .unassignedFD)],
    ∀ (s : State) (b2 b3 : Byte), decodeBytes x.1 b2 b3 = x.2 ∧ exec x.2 s = .refused (.unassigned x.1)

/-! ## What no instruction touches -/

/-- The table of condition bits, whole: an instruction leaves every condition bit that its row does not name; the logical
instructions reset CY; DAA never resets CY or AC (`10_state.md` R33). -/
def Obligations.ConditionBitsTable : Prop :=
  ∀ (i : Instr) (s t : State), exec i s = .next t →
    sameFlagsBut i.flagsWritten s t ∧
    ((∃ r, i = .ana r ∨ i = .xra r ∨ i = .ora r) ∨ (∃ d, i = .ani d ∨ i = .xri d ∨ i = .ori d) → t.flags.cy = false) ∧
    (i = .daa → (s.flags.cy = true → t.flags.cy = true) ∧ (s.flags.ac = true → t.flags.ac = true))

/-- Every instruction leaves every working register that it does not name as a destination (`10_state.md` R11). -/
def Obligations.RegistersUntouched : Prop :=
  ∀ (i : Instr) (s t : State), exec i s = .next t → sameRegsBut i.regsWritten s t

/-- Every instruction leaves every byte of memory but those at the addresses its rule stores to, and stores nothing outside
read/write memory (`20_memory.md` R45, R49, R50). -/
def Obligations.MemoryUntouched : Prop :=
  ∀ (i : Instr) (s t : State), exec i s = .next t →
    sameBytesBut ((i.storedBytes s).filter (fun adr => s.kind adr == .rw)) s t

/-- SP changes only by the instructions that name it, and by a push or pop, there by two; the program counter only by a transfer
of control whose condition holds (`10_state.md` R14, R16, R18, R19). -/
def Obligations.PointersUntouched : Prop :=
  ∀ (i : Instr) (s t : State), exec i s = .next t →
    (i.spWritten s.flags = false → t.sp = s.sp) ∧
    (i.setsSp = false → t.sp = s.sp ∨ t.sp = s.sp - 2#16 ∨ t.sp = s.sp + 2#16) ∧
    ((i.transfers && i.taken s.flags) = false → t.pc = s.pc)

/-- Only EI and DI change INTE, only HLT the run state, only OUT the output trace, only IN the count of inputs; no instruction
changes the memory map, the boundary counter or the schedules; each read of an ABSENT address takes one free value
(`10_state.md` R28, R29, `20_memory.md` R41, R56). -/
def Obligations.ControlUntouched : Prop :=
  ∀ (i : Instr) (s t : State), exec i s = .next t →
    sameEnvironment s t ∧ (i ≠ .ei → i ≠ .di → t.inte = s.inte) ∧ (i ≠ .hlt → t.run = s.run) ∧
    ((∀ dev, i ≠ .out dev) → t.outTrace = s.outTrace) ∧ ((∀ dev, i ≠ .inp dev) → t.inCount = s.inCount) ∧
    t.absentReads = s.absentReads + s.absentAmong (i.loadedBytes s)

/-! ## The whole machine -/

/-- Every step keeps memory in its canonical form: addresses strictly rising and inside the 65,536 bytes
(`20_memory.md` R40). -/
def Obligations.StepKeepsMemoryForm : Prop := ∀ s t : State, s.mem.wf → step s = .next t → t.mem.wf

/-- The reset state's memory has the canonical form: nothing is listed. -/
def Obligations.ResetMemoryForm : Prop := State.reset.mem.wf ∧ State.reset.mem = []

/-- No step changes a byte outside read/write memory, nor what kind of memory stands anywhere: "can only cause data to be
written into read/write memory" (`20_memory.md` R41, R45). -/
def Obligations.StepKeepsUnwritableMemory : Prop :=
  ∀ (s t : State) (adr : Word), step s = .next t →
    t.kind adr = s.kind adr ∧ (s.kind adr ≠ .rw → t.mem.read adr = s.mem.read adr)

/-- INTE turns on only by an EI that is executed, from memory or supplied by a device; it turns off only by DI or by an acceptance
(`60_exceptions.md` R341, R345). -/
def Obligations.InteWrittenOnlyByThree : Prop :=
  ∀ s t : State, step s = .next t →
    (s.inte = false → t.inte = true → s.executes = some .ei) ∧
    (s.inte = true → t.inte = false → s.executes = some .di ∨ s.isAccepting = true)

/-- STOPPED is left only by an acceptance, and entered only by HLT (`60_exceptions.md` R347, `10_state.md` R29). -/
def Obligations.StoppedLeftOnlyByAcceptance : Prop :=
  ∀ s t : State, step s = .next t →
    (s.run = .stopped → t.run = .running → s.isAccepting = true) ∧
    (t.run = .stopped → s.run = .stopped ∨ s.executes = some .hlt)

/-- STOPPED with INTE = 1 and no request, the machine waits: the boundary counter advances and nothing else changes; with a request
that is admitted, the supplied instruction executes with `pc` as it stands, INTE reset and RUNNING; with INTE = 0 there is no
next state (`60_exceptions.md` R347, R352). -/
def Obligations.StoppedMachine : Prop :=
  ∀ s : State, s.run = .stopped →
    (s.inte = true → s.irqNow = none → step s = .next { s with boundary := s.boundary + 1 }) ∧
    (∀ op, s.inte = true → s.irqNow = some op → admitted op = true →
      step s = exec (decodeBytes op 0#8 0#8) { s with boundary := s.boundary + 1, inte := false, run := .running }) ∧
    (s.inte = false → step s = .fault .stoppedForGood)

/-- The machine faults in one situation only, STOPPED with INTE = 0 (`60_exceptions.md` R340, R352). -/
def Obligations.OnlyFaultIsFinalState : Prop :=
  ∀ (s : State) (f : Fault), step s = .fault f ↔ s.isFinal = true ∧ f = .stoppedForGood

/-- A step is refused only for one of the twelve unassigned bytes, at `pc`, or for a device-supplied instruction that is not
one assigned byte; and a RUNNING machine has a next state wherever the instruction it executes is assigned and no request it
accepts carries an instruction that is not admitted (`60_exceptions.md` R346, R352, `70_reset_and_hazards.md` R382;
D8 and D11, logs 12 and 16). -/
def Obligations.RefusalsAreNamed : Prop :=
  (∀ (s : State) (r : Refusal), step s = .refused r →
    (∃ op, r = .deviceInstruction op ∧ s.irqNow = some op ∧ s.inte = true ∧ admitted op = false) ∨
    (∃ op i, r = .unassigned op ∧ s.executes = some i ∧ i.assigned = false ∧ op = s.peek s.pc ∧ encode i = [op])) ∧
  ∀ s : State, s.run = .running → (∀ op, s.inte = true → s.irqNow = some op → admitted op = true) →
    (∀ i, s.executes = some i → i.assigned = true) → ∃ t, step s = .next t

/-- An RST supplied by a device is accepted whole: INTE reset, RUNNING, the interrupted program's next address pushed high byte
first, the program counter at 8n, and nothing else (`60_exceptions.md` R344, R345, R347). -/
def Obligations.AcceptRestart : Prop :=
  ∀ (s : State) (n : BitVec 3), s.inte = true → s.irqNow = some (0b11#2 ++ n ++ 0b111#3) →
    ∃ t, step s = .next t ∧
      t.mem.read (s.sp - 1#16) = s.stored (s.sp - 1#16) (BitVec.ofNat 8 (s.pc.toNat / 256)) ∧
      t.mem.read (s.sp - 2#16) = s.stored (s.sp - 2#16) (BitVec.ofNat 8 s.pc.toNat) ∧
      sameBytesBut [s.sp - 1#16, s.sp - 2#16] s t ∧
      t = { s with inte := false, run := .running, boundary := s.boundary + 1, sp := s.sp - 2#16,
                   pc := BitVec.ofNat 16 (8 * n.toNat), mem := t.mem }

/-- The RET of an interrupt routine resumes the interrupted program: executed with the stack as the acceptance of an RST left it,
it gives back `pc` and SP and does not touch INTE; memory differs only by the two bytes pushed (`60_exceptions.md` R344,
R350). -/
def Obligations.ReturnFromInterrupt : Prop :=
  ∀ (s : State) (n : BitVec 3), s.inte = true → s.irqNow = some (0b11#2 ++ n ++ 0b111#3) →
    s.kind (s.sp - 1#16) = .rw → s.kind (s.sp - 2#16) = .rw →
    ∃ t, step s = .next t ∧ sameBytesBut [s.sp - 1#16, s.sp - 2#16] s t ∧
      exec .ret t = .next { s with inte := false, run := .running, boundary := s.boundary + 1, mem := t.mem }

/-- A request while INTE = 0, or no request, leaves a RUNNING machine to its program. A request while INTE = 1 whose instruction
is a one-byte assigned one is accepted, whatever the run state: INTE is reset, the machine is RUNNING and the supplied
instruction executes with `pc` as it stands. One that has more bytes, or is unassigned, is refused (`60_exceptions.md` R342,
R344 to R347; D10 and D11, logs 15 and 16). -/
def Obligations.RequestsAccepted : Prop :=
  ∀ s : State,
    (s.run = .running → s.inte = false ∨ s.irqNow = none →
      step s = fetchAndExecute { s with boundary := s.boundary + 1 }) ∧
    (∀ op, s.inte = true → s.irqNow = some op →
      (encode (decodeBytes op 0#8 0#8)).length = 1 → (decodeBytes op 0#8 0#8).assigned = true →
      step s = exec (decodeBytes op 0#8 0#8) { s with boundary := s.boundary + 1, inte := false, run := .running }) ∧
    (∀ op, s.inte = true → s.irqNow = some op →
      (encode (decodeBytes op 0#8 0#8)).length ≠ 1 ∨ (decodeBytes op 0#8 0#8).assigned = false →
      step s = .refused (.deviceInstruction op))

/-- The output trace only grows, by one pair at most in a step, and that pair is the device of the OUT executed and A
(`20_memory.md` R56, `48_interrupt_io_halt.md` R264). -/
def Obligations.OutputTraceGrows : Prop :=
  ∀ s t : State, step s = .next t →
    t.outTrace = s.outTrace ∨
    ∃ dev, s.executes = some (.out dev) ∧ t.outTrace = s.outTrace ++ [(dev, s.regs.a)]

/-- Every step passes exactly one boundary and leaves the environment's draws and the memory map as they are
(`60_exceptions.md` R342, `20_memory.md` R41). -/
def Obligations.StepPassesOneBoundary : Prop :=
  ∀ s t : State, step s = .next t →
    t.boundary = s.boundary + 1 ∧ t.irq = s.irq ∧ t.inputs = s.inputs ∧ t.memMap = s.memMap

/-- The start of a run: `pc` 0000H, INTE 0, RUNNING, nothing loaded and nothing output (`10_state.md` R32, D1, log 4). The zeros
of the registers, the condition bits and SP are the model's choice (logs 1 to 3), and so is it that every address is
read/write memory (log 6; `MEM_KIND` has no default, `00_scope.md` R4). -/
def Obligations.ResetState : Prop :=
  State.reset.pc = 0x0000#16 ∧ State.reset.inte = false ∧ State.reset.run = .running ∧ State.reset.mem = [] ∧
    State.reset.outTrace = [] ∧ State.reset.inCount = 0 ∧ State.reset.boundary = 0 ∧ State.reset.sp = 0x0000#16 ∧
    (∀ r, State.reset.regs.get r = 0x00#8) ∧ (∀ f, State.reset.flags.get f = false) ∧
    (∀ adr, State.reset.kind adr = .rw)
end

