-- ==== Sys2Proof/Machine/AsmText.lean ====
section
/-! DEFINITION. The assembler's text: characters, names, constants and the tokens of a line (`49_assembler_pseudo_macros.md`
R281, R282, R286, R288, R289, R292, R298, R323). The assembler is outside the machine: it turns source lines into (address, byte)
pairs before a run, and no step calls it. -/

namespace Sys2Proof.Asm

/-- A name as written: a symbol, an operation code or a pseudo-instruction. -/
abbrev Name := List Char

/-- Why a source program is not assembled. The source says what is an error (R324) and leaves other cases unstated: both end the
assembly by name. -/
inductive AsmError where
  /-- a label "begins with a decimal digit", holds another character, or a field stands where none may (R282, R324) -/
  | badLabel
  /-- the label is an operation code, a pseudo-instruction or a register name (R282) -/
  | reservedLabel (name : Name)
  /-- the same label, or the same EQU name, twice (R283, R305, R314) -/
  | duplicate (name : Name)
  /-- the code field holds no operation code, pseudo-instruction or defined name (R284) -/
  | unknownCode (name : Name)
  /-- no blank after the code field, or beside a word operator (R284, R298) -/
  | missingBlank
  /-- the operand field does not fit the code field (R285, `30_encoding.md` R94) -/
  | badOperand
  /-- an expression that is no expression (R296) -/
  | badExpression
  /-- a symbol with no value known here (R290, R316) -/
  | unknownSymbol (name : Name)
  /-- a value outside the field's range (R287, R295, `47_jump_call_return_rst.md` R241) -/
  | outOfRange
  /-- MOV M,M (`41_data_transfer.md` R120) -/
  | movMM
  /-- a definition inside a definition (R309) -/
  | nestedDefinition
  /-- no END, or a line after END (R307) -/
  | badEnd
  /-- IF without ENDIF, ENDIF without IF, a definition without ENDM, ENDM without a definition (R308, R309) -/
  | unbalanced
  /-- the source does not state the value or the meaning, and the model takes none: division by zero or of
  signed operands and shift counts of 16 or more (`93_implementation_defined.md` T20), a constant above 65,535, a constant of several characters used as one operand, the value of a longer instruction in parentheses
  (`91_not_in_source.md` N21; log 32); a character the table of R323 lacks (log 38); labels that do not settle (log 40) -/
  | unstated
  /-- more lines than the assembly was given leave to expand -/
  | tooLong
  deriving DecidableEq, Repr

/-- The result of a stage of the assembly. -/
abbrev Checked := Except AsmError

/-! ## Characters (R323) -/

/-- A letter of the alphabet; the character table has no others. -/
def isLetter (c : Char) : Bool := 65 ≤ c.toNat && c.toNat ≤ 90

/-- A decimal digit. -/
def isDigit (c : Char) : Bool := 48 ≤ c.toNat && c.toNat ≤ 57

/-- The first character of a name: "a letter of the alphabet or one of the special characters @ (at sign) or ? (question mark)"
(R282). -/
def isNameStart (c : Char) : Bool := isLetter c || c == '@' || c == '?'

/-- A character of a name after the first: letters and digits, the only ones the examples use, and the two of the first
(R282; log 33). -/
def isNameRest (c : Char) : Bool := isNameStart c || isDigit c

/-- A blank between fields (R281): the space, which the table calls blank. DESIGN CHOICE: the horizontal tab, 09H, too; the spec does
not say whether it separates fields (R323; log 38). -/
def isBlank (c : Char) : Bool := c == ' ' || c.toNat == 9

/-- The 7-bit code of a character, bit 7 = 0 (R289, R323): a character of source is its code, whether the table calls it "Graphic
or Control". The codes are 00H to 5FH and the three more entries, 7CH, 7DH and 7FH; up arrow, 5EH, and left arrow, 5FH, may be
written as the arrows. Whether other characters are accepted "is not stated"; DESIGN CHOICE: they have no code (log 38). -/
def asciiCode (c : Char) : Option Byte :=
  if c.toNat < 0x60 || c.toNat == 0x7C || c.toNat == 0x7D || c.toNat == 0x7F then some (BitVec.ofNat 8 c.toNat)
  else if c.toNat == 0x2191 then some 0x5E#8
  else if c.toNat == 0x2190 then some 0x5F#8
  else none

/-! ## Constants (R286) -/

/-- The value of a digit in a base, if it is one. -/
def digitValue (base : Nat) (c : Char) : Option Nat :=
  let v := if isDigit c then c.toNat - 48 else if 65 ≤ c.toNat && c.toNat ≤ 70 then c.toNat - 55 else base
  if v < base then some v else none

/-- The number the digits write in a base, most significant first. -/
def readDigits (base : Nat) (digits : List Char) (value : Nat) : Option Nat :=
  match digits with
  | [] => some value
  | c :: rest =>
    match digitValue base c with
    | some d => readDigits base rest (value * base + d)
    | none => none

/-- The base a constant's last letter names: H hexadecimal, D or none decimal, O or Q octal, B binary. -/
def constantBase (last : Char) : Nat × Bool :=
  if last == 'H' then (16, true)
  else if last == 'D' then (10, true)
  else if last == 'O' || last == 'Q' then (8, true)
  else if last == 'B' then (2, true)
  else (10, false)

/-- The value of a constant as written. A constant is a 16-bit quantity; one above 65,535 is not stated (R286, R296). -/
def readConstant (text : List Char) : Checked Word :=
  match text.reverse with
  | [] => .error .badExpression
  | last :: before =>
    let (base, suffixed) := constantBase last
    let digits := if suffixed then before.reverse else text
    if digits.isEmpty then .error .badExpression
    else
      match readDigits base digits 0 with
      | none => .error .badExpression
      | some v => if v < 65536 then .ok (BitVec.ofNat 16 v) else .error .unstated

/-! ## Tokens -/

/-- A token of a line. -/
inductive Tok where
  /-- a name as written -/
  | name (text : Name)
  /-- a numeric constant -/
  | number (value : Word)
  /-- an ASCII constant, without its quotes (R289) -/
  | chars (text : List Char)
  /-- one of `+ - * / ( ) , : $` -/
  | mark (c : Char)
  /-- a parameter evaluated at the reference, with the name it was written as if it was one name (R317) -/
  | bound (value : Word) (text : Name)
  /-- the semicolon of a comment; what follows it on the line is ignored (R281, R292) -/
  | comment
  /-- text that is no token: an error of the statement, where the statement is assembled at all (R308, R313) -/
  | bad (error : AsmError)
  deriving DecidableEq, Repr

/-- A token and whether a blank stands before it. -/
structure Lexeme where
  tok : Tok
  blankBefore : Bool
  deriving DecidableEq, Repr

/-- The marks. -/
def isMark (c : Char) : Bool :=
  c == '+' || c == '-' || c == '*' || c == '/' || c == '(' || c == ')' || c == ',' || c == ':' || c == '$'

/-- The text of an ASCII constant after its opening quote, and what follows its closing one: two quotes in a row are one quote
(R289). -/
def readQuoted (text : List Char) (taken : List Char) : Option (List Char × List Char) :=
  match text with
  | [] => none
  | c :: rest =>
    if c.toNat == 39 then
      match rest with
      | d :: rest' => if d.toNat == 39 then readQuoted rest' (d :: taken) else some (taken.reverse, rest)
      | [] => some (taken.reverse, [])
    else readQuoted rest (c :: taken)

/-- The token a constant writes: "one or more ASCII characters" for an ASCII constant (R289). -/
def charsTok : List Char → Tok
  | [] => .bad .badExpression
  | text => .chars text

/-- The token a numeric constant writes. -/
def numberTok (text : List Char) : Tok :=
  match readConstant text with
  | .ok value => .number value
  | .error e => .bad e

/-- The tokens of a line, to its end or to the semicolon of its comment (R281, R292). The fuel is the length of the text. -/
def readTokens (fuel : Nat) (text : List Char) (blank : Bool) : List Lexeme :=
  match fuel, text with
  | _, [] => []
  | 0, _ :: _ => [⟨.bad .tooLong, blank⟩]
  | fuel + 1, c :: rest =>
    if isBlank c then readTokens fuel rest true
    else if c == ';' then [⟨.comment, blank⟩]
    else if isNameStart c then
      ⟨.name (c :: rest.takeWhile isNameRest), blank⟩ :: readTokens fuel (rest.dropWhile isNameRest) false
    else if isDigit c then
      ⟨numberTok (c :: rest.takeWhile isNameRest), blank⟩ :: readTokens fuel (rest.dropWhile isNameRest) false
    else if c.toNat == 39 then
      match readQuoted rest [] with
      | none => [⟨.bad .badExpression, blank⟩]
      | some (taken, after) => ⟨charsTok taken, blank⟩ :: readTokens fuel after false
    else
      ⟨if isMark c then .mark c else .bad .badExpression, blank⟩ :: readTokens fuel rest false

/-- The tokens of a line of source: every line has some, so that a statement that is ignored (R308) is read no further. -/
def tokenize (line : List Char) : List Lexeme := readTokens line.length line true

/-- What a name is recognised as: "only the first five will be recognized" (R282). -/
def symbolOf (text : Name) : Name := text.take 5

end Sys2Proof.Asm
end

