-- ==== Sys2Proof/Machine/AsmOpcode.lean ====
section
/-! DEFINITION. From a code field and the values of its operands to an instruction: "How the operand field of a statement fills
the fields", instruction by instruction (`30_encoding.md` R94; `49_assembler_pseudo_macros.md` R284, R285, R287, R295). -/

namespace Sys2Proof.Asm

/-- An operand item after evaluation: a value, or one of the two pair names that have no number (R287, U6). -/
inductive Item where
  | value (w : Word)
  | sp
  | psw
  deriving DecidableEq, Repr

/-- What a code field wants as operands (R94). -/
inductive Form where
  | plain (i : Instr)
  | reg (make : R8 → Instr)
  | move
  | regByte
  | bd (make : BDPair → Instr)
  | stack (make : StackPair → Instr)
  | pair (make : RegPair → Instr)
  | pairWord
  | byte (make : Byte → Instr)
  | word (make : Word → Instr)
  | three
  | device (make : Byte → Instr)

/-- The number of bytes the statement assembles to (`30_encoding.md` R71). -/
def Form.length : Form → Nat
  | .plain _ | .reg _ | .move | .bd _ | .stack _ | .pair _ | .three => 1
  | .regByte | .byte _ | .device _ => 2
  | .pairWord | .word _ => 3

/-- Code fields that take no operand (R94). -/
def plainCodes : List (Name × Form) := [
  (['S', 'T', 'C'], .plain .stc), (['C', 'M', 'C'], .plain .cmc), (['C', 'M', 'A'], .plain .cma),
  (['D', 'A', 'A'], .plain .daa), (['N', 'O', 'P'], .plain .nop), (['R', 'L', 'C'], .plain .rlc),
  (['R', 'R', 'C'], .plain .rrc), (['R', 'A', 'L'], .plain .ral), (['R', 'A', 'R'], .plain .rar),
  (['X', 'C', 'H', 'G'], .plain .xchg), (['X', 'T', 'H', 'L'], .plain .xthl), (['S', 'P', 'H', 'L'], .plain .sphl),
  (['P', 'C', 'H', 'L'], .plain .pchl), (['R', 'E', 'T'], .plain .ret), (['R', 'C'], .plain .rc),
  (['R', 'N', 'C'], .plain .rnc), (['R', 'Z'], .plain .rz), (['R', 'N', 'Z'], .plain .rnz), (['R', 'M'], .plain .rm),
  (['R', 'P'], .plain .rp), (['R', 'P', 'E'], .plain .rpe), (['R', 'P', 'O'], .plain .rpo), (['E', 'I'], .plain .ei),
  (['D', 'I'], .plain .di), (['H', 'L', 'T'], .plain .hlt)]

/-- Code fields that take registers, M or an expression 0 to 7 (R94). -/
def registerCodes : List (Name × Form) := [
  (['I', 'N', 'R'], .reg .inr), (['D', 'C', 'R'], .reg .dcr), (['A', 'D', 'D'], .reg .add), (['A', 'D', 'C'], .reg .adc),
  (['S', 'U', 'B'], .reg .sub), (['S', 'B', 'B'], .reg .sbb), (['A', 'N', 'A'], .reg .ana), (['X', 'R', 'A'], .reg .xra),
  (['O', 'R', 'A'], .reg .ora), (['C', 'M', 'P'], .reg .cmp), (['M', 'O', 'V'], .move)]

/-- Code fields that take register pairs (R94). -/
def pairCodes : List (Name × Form) := [
  (['S', 'T', 'A', 'X'], .bd .stax), (['L', 'D', 'A', 'X'], .bd .ldax), (['P', 'U', 'S', 'H'], .stack .push),
  (['P', 'O', 'P'], .stack .pop), (['D', 'A', 'D'], .pair .dad), (['I', 'N', 'X'], .pair .inx),
  (['D', 'C', 'X'], .pair .dcx)]

/-- Code fields that take immediate data (R94). -/
def immediateCodes : List (Name × Form) := [
  (['L', 'X', 'I'], .pairWord), (['M', 'V', 'I'], .regByte), (['A', 'D', 'I'], .byte .adi), (['A', 'C', 'I'], .byte .aci),
  (['S', 'U', 'I'], .byte .sui), (['S', 'B', 'I'], .byte .sbi), (['A', 'N', 'I'], .byte .ani),
  (['X', 'R', 'I'], .byte .xri), (['O', 'R', 'I'], .byte .ori), (['C', 'P', 'I'], .byte .cpi), (['R', 'S', 'T'], .three),
  (['I', 'N'], .device .inp), (['O', 'U', 'T'], .device .out)]

/-- Code fields that take a 16-bit expression (R94). -/
def addressCodes : List (Name × Form) := [
  (['S', 'T', 'A'], .word .sta), (['L', 'D', 'A'], .word .lda), (['S', 'H', 'L', 'D'], .word .shld),
  (['L', 'H', 'L', 'D'], .word .lhld), (['J', 'M', 'P'], .word .jmp), (['J', 'C'], .word .jc),
  (['J', 'N', 'C'], .word .jnc), (['J', 'Z'], .word .jz), (['J', 'N', 'Z'], .word .jnz), (['J', 'M'], .word .jm),
  (['J', 'P'], .word .jp), (['J', 'P', 'E'], .word .jpe), (['J', 'P', 'O'], .word .jpo),
  (['C', 'A', 'L', 'L'], .word .call), (['C', 'C'], .word .cc), (['C', 'N', 'C'], .word .cnc), (['C', 'Z'], .word .cz),
  (['C', 'N', 'Z'], .word .cnz), (['C', 'M'], .word .cm), (['C', 'P'], .word .cp), (['C', 'P', 'E'], .word .cpe),
  (['C', 'P', 'O'], .word .cpo)]

/-- The form of an operation code, if the name is one (R284). -/
def formOf (code : Name) : Option Form :=
  (plainCodes ++ registerCodes ++ pairCodes ++ immediateCodes ++ addressCodes).lookup code

/-! ## Items to fields -/

/-- "the specifications must finally evaluate to one of the numbers 0 - 7" (R287). -/
def Item.r8 : Item → Checked R8
  | .value w => if w.toNat < 8 then .ok (R8.ofCode (w.setWidth 3)) else .error .outOfRange
  | _ => .error .badOperand

/-- A pair by its letter, whose value is the number of its first register: the field is value / 2; or SP (R287). That any other
expression of value 0, 2 or 4 stands for the pair too is a DESIGN CHOICE: "the programmer should always specify a register
pair by its alphabetic designation" (log 36). -/
def Item.regPair : Item → Checked RegPair
  | .value w =>
    if w.toNat = 0 then .ok .b else if w.toNat = 2 then .ok .d else if w.toNat = 4 then .ok .h else .error .badOperand
  | .sp => .ok .sp
  | .psw => .error .badOperand

/-- A pair by its letter, or PSW (R287). DESIGN CHOICE: an expression of value 0, 2 or 4 stands for the pair (log 36). -/
def Item.stackPair : Item → Checked StackPair
  | .value w =>
    if w.toNat = 0 then .ok .b else if w.toNat = 2 then .ok .d else if w.toNat = 4 then .ok .h else .error .badOperand
  | .psw => .ok .psw
  | .sp => .error .badOperand

/-- "B or D" (`41_data_transfer.md` R121, R122). DESIGN CHOICE: an expression of value 0 or 2, such as STAX 2 or STAX 4-2, stands
for the pair; the spec leaves open whether one may (log 36). -/
def Item.bdPair : Item → Checked BDPair
  | .value w => if w.toNat = 0 then .ok .b else if w.toNat = 2 then .ok .d else .error .badOperand
  | _ => .error .badOperand

/-- A 16-bit expression. -/
def Item.word : Item → Checked Word
  | .value w => .ok w
  | _ => .error .badOperand

/-- An 8-bit expression: 0 to 255 is always accepted, any other value where the parameter `ASM_BYTE_RANGE` accepts it, and "the
byte assembled is always the low 8 bits of the value" (R295, D20, log 31). -/
def byteOf (accepts : Word → Bool) (w : Word) : Checked Byte :=
  if w.toNat < 256 || accepts w then .ok (lowByte w) else .error .outOfRange

/-- The byte of an item. -/
def Item.byte (accepts : Word → Bool) (i : Item) : Checked Byte := do byteOf accepts (← i.word)

/-- A number from 0 to 255. -/
def Item.deviceNumber (i : Item) : Checked Byte := i.byte (fun _ => false)

/-- The operand of RST, 0 to 7 (`47_jump_call_return_rst.md` R241). -/
def Item.three (i : Item) : Checked (BitVec 3) := do
  let w ← i.word
  if w.toNat < 8 then .ok (w.setWidth 3) else .error .outOfRange

/-- The instruction a form makes of its items. -/
def Form.instr (accepts : Word → Bool) (form : Form) (items : List Item) : Checked Instr :=
  match form, items with
  | .plain i, [] => .ok i
  | .reg make, [r] => do return make (← r.r8)
  | .move, [dst, src] => do
    let i := Instr.mov (← dst.r8) (← src.r8)
    if i.wellFormed then .ok i else .error .movMM
  | .regByte, [r, data] => do return .mvi (← r.r8) (← data.byte accepts)
  | .bd make, [p] => do return make (← p.bdPair)
  | .stack make, [p] => do return make (← p.stackPair)
  | .pair make, [p] => do return make (← p.regPair)
  | .pairWord, [p, data] => do return .lxi (← p.regPair) (← data.word)
  | .byte make, [data] => do return make (← data.byte accepts)
  | .word make, [adr] => do return make (← adr.word)
  | .three, [exp] => do return .rst (← exp.three)
  | .device make, [dev] => do return make (← dev.deviceNumber)
  | _, _ => .error .badOperand

end Sys2Proof.Asm
end

