-- ==== Sys2Proof/Machine/AsmExpr.lean ====
section
/-! DEFINITION. The value of an expression: operators, their order, the instruction in parentheses, and the items of an operand
field (`49_assembler_pseudo_macros.md` R285, R288 to R290, R294, R296 to R298). -/

namespace Sys2Proof.Asm

/-- The binary operators (R296). -/
inductive BinOp where
  | mul | div | mod | shl | shr | add | sub | and | or | xor
  deriving DecidableEq, Repr

/-- The operands that `/` and MOD are given a value for: a divisor that is not 0, and no signed operand
(`93_implementation_defined.md` T20). DEDUCED: a 16-bit quantity whose bit 15 is set is a signed operand, since -6 and 0FFFAH are
one quantity (log 32). -/
def divisible (x y : Word) : Bool := y != 0#16 && !x.getLsbD 15 && !y.getLsbD 15

/-- The value of a binary operator: "All operators treat their arguments as 16-bit quantities, and generate 16-bit quantities as
their result" (R296). A quotient or remainder by zero or of signed operands and a shift by 16 or more are refused
(`93_implementation_defined.md` T20). -/
def BinOp.apply (op : BinOp) (x y : Word) : Checked Word :=
  match op with
  | .add => .ok (x + y)
  | .sub => .ok (x - y)
  | .mul => .ok (x * y)
  | .div => if divisible x y then .ok (x / y) else .error .unstated
  | .mod => if divisible x y then .ok (x % y) else .error .unstated
  | .and => .ok (x &&& y)
  | .or => .ok (x ||| y)
  | .xor => .ok (x ^^^ y)
  | .shr => if y.toNat < 16 then .ok (x >>> y.toNat) else .error .unstated
  | .shl => if y.toNat < 16 then .ok (x <<< y.toNat) else .error .unstated

/-- How tightly an operator binds, the loosest 0: "* / MOD SHL SHR", then "+, - (unary and binary)", then NOT, AND, "OR XOR"
(R297). -/
def BinOp.level : BinOp → Nat
  | .mul | .div | .mod | .shl | .shr => 4
  | .add | .sub => 3
  | .and => 1
  | .or | .xor => 0

/-- The operator a token writes, if it writes one. -/
def binOpOf : Tok → Option BinOp
  | .mark c =>
    if c == '*' then some .mul
    else if c == '/' then some .div
    else if c == '+' then some .add
    else if c == '-' then some .sub
    else none
  | .name text =>
    if text == ['M', 'O', 'D'] then some .mod
    else if text == ['S', 'H', 'L'] then some .shl
    else if text == ['S', 'H', 'R'] then some .shr
    else if text == ['A', 'N', 'D'] then some .and
    else if text == ['O', 'R'] then some .or
    else if text == ['X', 'O', 'R'] then some .xor
    else none
  | _ => none

/-- An operator written as a word, which "must be separated from their operands by at least one blank" (R298). -/
def isWordOperator : Tok → Bool
  | .name _ => true
  | _ => false

/-- What an expression refers to: the value of `$`, "the address of the current instruction" (R288), and the symbols known where
it stands (R290). -/
structure Context where
  here : Word
  lookup : Name → Checked Word

/-- The value of an ASCII constant used as one operand: one character's code. That of several characters is not stated (R289), nor
whether a character the table lacks may stand (R323; log 38). -/
def charsValue : List Char → Checked Word
  | [c] =>
    match asciiCode c with
    | some v => .ok (v.setWidth 16)
    | none => .error .unstated
  | _ => .error .unstated

/-- The tokens up to the parenthesis that closes `depth` open ones, and those after it. -/
def splitParen (depth : Nat) : List Lexeme → Checked (List Lexeme × List Lexeme)
  | [] => .error .badExpression
  | x :: rest =>
    match x.tok with
    | .mark c =>
      if c == ')' then
        match depth with
        | 0 => .ok ([], rest)
        | d + 1 => do
          let (inner, after) ← splitParen d rest
          return (x :: inner, after)
      else do
        let (inner, after) ← splitParen (if c == '(' then depth + 1 else depth) rest
        return (x :: inner, after)
    | _ => do
      let (inner, after) ← splitParen depth rest
      return (x :: inner, after)

/-- The items of an operand field: the tokens between the commas that stand in no parentheses; none, of an empty field
(R285). `item` holds the tokens of the item being read, last first. -/
def splitItems (depth : Nat) (item : List Lexeme) : List Lexeme → List (List Lexeme)
  | [] => [item.reverse]
  | x :: rest =>
    if x.tok == .mark ',' && depth == 0 then item.reverse :: splitItems 0 [] rest
    else
      let depth' := if x.tok == .mark '(' then depth + 1 else if x.tok == .mark ')' then depth - 1 else depth
      splitItems depth' (x :: item) rest

/-- The items of an operand field. -/
def itemsOf (operands : List Lexeme) : List (List Lexeme) := if operands.isEmpty then [] else splitItems 0 [] operands

/-- An item of an operand field: a pair name with no number, or an expression. -/
def itemOf (eval : List Lexeme → Checked Word) (tokens : List Lexeme) : Checked Item :=
  match tokens with
  | [x] =>
    if x.tok == .name ['S', 'P'] then .ok .sp
    else if x.tok == .name ['P', 'S', 'W'] then .ok .psw
    else do return .value (← eval tokens)
  | _ => do return .value (← eval tokens)

/-- The code field's name, of tokens that begin with an operation code (R294). -/
def codeOf : List Lexeme → Option (Form × List Lexeme)
  | ⟨.name text, _⟩ :: rest => (formOf text).map (fun form => (form, rest))
  | _ => none

/-- Whether a blank stands before the first of the tokens. -/
def blankNext : List Lexeme → Bool
  | x :: _ => x.blankBefore
  | [] => false

/-- The value of the expression at the head of the tokens, and the tokens after it. `left` is the value of what has been read of
it; operators that bind less tightly than `least` end it. Operators of one level are taken from left to right (log 32). -/
def evalFrom (fuel : Nat) (ctx : Context) (least : Nat) (left : Option Word) (tokens : List Lexeme) :
    Checked (Word × List Lexeme) :=
  match fuel with
  | 0 => .error .tooLong
  | fuel + 1 =>
    match left, tokens with
    | none, [] => .error .badExpression
    | none, x :: rest =>
      match x.tok with
      | .number v => evalFrom fuel ctx least (some v) rest
      | .bound v _ => evalFrom fuel ctx least (some v) rest
      | .chars text => do evalFrom fuel ctx least (some (← charsValue text)) rest
      | .comment => .error .badExpression
      | .bad e => .error e
      | .name text =>
        if text == ['N', 'O', 'T'] then
          if blankNext rest then do
            let (v, after) ← evalFrom fuel ctx (max least 2) none rest
            evalFrom fuel ctx least (some (~~~v)) after
          else .error .missingBlank
        else do evalFrom fuel ctx least (some (← ctx.lookup (symbolOf text))) rest
      | .mark c =>
        if c == '$' then evalFrom fuel ctx least (some ctx.here) rest
        else if c == '-' then do
          let (v, after) ← evalFrom fuel ctx (max least 4) none rest
          evalFrom fuel ctx least (some (0#16 - v)) after
        else if c == '(' then do
          let (inner, after) ← splitParen 0 rest
          let whole := fun tokens => do
            match ← evalFrom fuel ctx 0 none tokens with
            | (v, []) => .ok v
            | _ => .error .badExpression
          match codeOf inner with
          | some (form, operands) =>
            let items ← (itemsOf operands).mapM (itemOf whole)
            match encode (← form.instr (fun _ => false) items) with
            | [b] => evalFrom fuel ctx least (some (b.setWidth 16)) after
            | _ => .error .unstated
          | none => do evalFrom fuel ctx least (some (← whole inner)) after
        else .error .badExpression
    | some v, [] => .ok (v, [])
    | some v, x :: rest =>
      match binOpOf x.tok with
      | none => .ok (v, x :: rest)
      | some op =>
        if op.level < least then .ok (v, x :: rest)
        else if isWordOperator x.tok && !(x.blankBefore && blankNext rest) then .error .missingBlank
        else do
          let (w, after) ← evalFrom fuel ctx (op.level + 1) none rest
          evalFrom fuel ctx least (some (← op.apply v w)) after

/-- The value of an expression that is all of the tokens. -/
def evalWhole (ctx : Context) (tokens : List Lexeme) : Checked Word := do
  match ← evalFrom (2 * tokens.length + 2) ctx 0 none tokens with
  | (v, []) => .ok v
  | _ => .error .badExpression

/-- An item of the operand field. -/
def evalItem (ctx : Context) (tokens : List Lexeme) : Checked Item := itemOf (evalWhole ctx) tokens

end Sys2Proof.Asm
end

