-- ==== Sys2Proof/Machine/Assemble.lean ====
section
/-! DEFINITION. A source program to its object program, "a sequence of binary codes that can be loaded into memory and executed":
statements, data statements, pseudo-instructions, definitions and their expansion (`49_assembler_pseudo_macros.md` R280 to R284,
R300 to R321). Passes find the address of every label, and the last assembles the bytes (log 40). -/

namespace Sys2Proof.Asm

/-! ## Statements -/

/-- The code fields of data statements (R300 to R302) and of pseudo-instructions (R303 to R309). -/
inductive Pseudo where
  | db | dw | ds | org | equ | set | endCode | ifCode | endifCode | macroCode | endmCode
  deriving DecidableEq, Repr

/-- Their names. -/
def pseudoNames : List (Name × Pseudo) := [
  (['D', 'B'], .db), (['D', 'W'], .dw), (['D', 'S'], .ds), (['O', 'R', 'G'], .org), (['E', 'Q', 'U'], .equ),
  (['S', 'E', 'T'], .set), (['E', 'N', 'D'], .endCode), (['I', 'F'], .ifCode), (['E', 'N', 'D', 'I', 'F'], .endifCode),
  (['M', 'A', 'C', 'R', 'O'], .macroCode), (['E', 'N', 'D', 'M'], .endmCode)]

/-- The pseudo-instruction or data statement a name stands for, if it does. -/
def pseudoOf (name : Name) : Option Pseudo := pseudoNames.lookup name

/-- The names in the label field of EQU, SET and MACRO, not followed by a colon (R303). -/
def Pseudo.named : Pseudo → Bool
  | .equ | .set | .macroCode => true
  | _ => false

/-- The data statements, which place or reserve bytes: the rest are the eight pseudo-instructions (R303). -/
def Pseudo.isData : Pseudo → Bool
  | .db | .dw | .ds => true
  | _ => false

/-- The register names, each with the value the assembler gives it "Before every assembly" (R287). -/
def registerNames : List (Name × Word) := [
  (['B'], 0#16), (['C'], 1#16), (['D'], 2#16), (['E'], 3#16), (['H'], 4#16), (['L'], 5#16), (['M'], 6#16), (['A'], 7#16)]

/-- "The operation codes, pseudo-instruction names, and register names ... may not be used as labels" (R282). -/
def isReserved (name : Name) : Bool :=
  (formOf name).isSome || (pseudoOf name).isSome || (registerNames.lookup name).isSome || name == ['S', 'P'] ||
    name == ['P', 'S', 'W']

/-- A statement: its label, whether two colons make the label global (R314), the name of an EQU, SET or MACRO, the code field and
the operand field; a comment is left out (R281, R292). -/
structure Statement where
  label : Option (Name × Bool) := none
  name : Option Name := none
  code : Option Name := none
  operands : List Lexeme := []
  deriving DecidableEq, Repr

/-- The name a token writes, if it writes one. -/
def nameOf : Tok → Option Name
  | .name text => some text
  | .bound _ text => if text.isEmpty then none else some text
  | _ => none

/-- The tokens before a comment. -/
def withoutComment (line : List Lexeme) : List Lexeme := line.takeWhile (fun x => x.tok != .comment)

/-- The label field: a name and the colon that "must follow the last character", or two (R282, R314). DESIGN CHOICE: the two are
taken outside a definition too, of which the spec does not speak (log 42). -/
def labelField (line : List Lexeme) : Checked (Option (Name × Bool) × List Lexeme) :=
  match line with
  | x :: ⟨.mark ':', false⟩ :: rest =>
    match nameOf x.tok with
    | none => .error .badLabel
    | some text =>
      match rest with
      | ⟨.mark ':', false⟩ :: rest' => .ok (some (symbolOf text, true), rest')
      | _ => .ok (some (symbolOf text, false), rest)
  | _ => .ok (none, line)

/-- The name field of EQU, SET and MACRO (R303). -/
def nameField (line : List Lexeme) : Option Name × List Lexeme :=
  match line with
  | x :: y :: rest =>
    match nameOf x.tok, (nameOf y.tok).bind pseudoOf with
    | some text, some p => if p.named then (some (symbolOf text), y :: rest) else (none, line)
    | _, _ => (none, line)
  | _ => (none, line)

/-- The statement a line writes. "There must be at least one space following the code field" (R284). DESIGN CHOICE: a code field
without an operand needs none before its comment or the end of its line, which the spec leaves open (R292; log 42). -/
def parseStatement (line : List Lexeme) : Checked Statement := do
  let (label, afterLabel) ← labelField (withoutComment line)
  let (name, afterName) := nameField afterLabel
  match afterName with
  | [] => .ok { label := label, name := name }
  | x :: operands =>
    match x.tok, nameOf x.tok with
    | .bad e, _ => .error e
    | _, none => .error .badLabel
    | _, some code =>
      if label.isSome && name.isSome then .error .badLabel
      else if operands.isEmpty || blankNext operands then
        .ok { label := label, name := name, code := some code, operands := operands }
      else .error .missingBlank

/-- Whether the line is a statement with this code field. -/
def hasCode (p : Pseudo) (line : List Lexeme) : Bool :=
  match parseStatement line with
  | .ok stmt => stmt.code.bind pseudoOf == some p
  | .error _ => false

/-- The end of an IF whose expression is zero: what follows its ENDIF, and the ENDIF (R308). An IF between the two has an ENDIF
of its own (log 34). -/
def skipToEndif (depth : Nat) : List (List Lexeme) → Checked (List Lexeme × List (List Lexeme))
  | [] => .error .unbalanced
  | line :: rest =>
    if hasCode .ifCode line then skipToEndif (depth + 1) rest
    else if hasCode .endifCode line then
      match depth with
      | 0 => .ok (line, rest)
      | d + 1 => skipToEndif d rest
    else skipToEndif depth rest

/-- The body of a definition: the lines up to ENDM, the ENDM, and what follows it. "macros may not define other macros"
(R309). -/
def takeBody : List (List Lexeme) → Checked (List (List Lexeme) × List Lexeme × List (List Lexeme))
  | [] => .error .unbalanced
  | line :: rest =>
    if hasCode .endmCode line then .ok ([], line, rest)
    else if hasCode .macroCode line then .error .nestedDefinition
    else do
      let (body, ending, after) ← takeBody rest
      return (line :: body, ending, after)

/-! ## Symbols -/

/-- How a symbol came by its value. -/
inductive SymbolKind where
  /-- the label of a statement (R282) -/
  | label
  /-- EQU: "an EQU symbol may not be redefined" (R305) -/
  | equ
  /-- SET: "may be defined more than once" (R306) -/
  | set
  deriving DecidableEq, Repr

/-- A symbol: the expansion it belongs to (0 is the program itself), its name, and its value where the pass knows it. -/
structure Symbol where
  scope : Nat
  name : Name
  kind : SymbolKind
  value : Option Word
  deriving DecidableEq, Repr

/-- A definition of MACRO: its name, its dummy parameters, each the tokens that mark its positions, and its body (R311). -/
structure Definition where
  name : Name
  params : List (List Lexeme)
  body : List (List Lexeme)
  deriving DecidableEq, Repr

/-- What a pass has made so far. -/
structure Pass where
  /-- the location counter, "a 16-bit address. It starts at 0" (R320) -/
  counter : Word := 0#16
  /-- the address "immediately following the last previously assembled machine instruction" (R303), once there is one -/
  afterInstruction : Option Word := none
  /-- the expansions so far -/
  expansions : Nat := 0
  definitions : List Definition := []
  /-- the symbols, newest first; the registers are SET before every assembly (R287) -/
  symbols : List Symbol := registerNames.map (fun r => ⟨0, r.1, .set, some r.2⟩)
  /-- the (address, byte) pairs, last first -/
  output : List (Word × Byte) := []
  /-- the END statement has been met (R307) -/
  ended : Bool := false
  deriving DecidableEq, Repr

/-- What a pass is given: `ASM_BYTE_RANGE` (D20), the labels the pass before it found, and whether it is the last. -/
structure Settings where
  accepts : Word → Bool
  labels : List Symbol
  last : Bool

/-- A part of a statement before the last pass: where it cannot be done yet, for want of a label defined later (R283), the value
that stands for it. The last pass takes no such value. -/
def Settings.tolerate {α : Type} (given : Settings) (otherwise : α) (x : Checked α) : Checked α :=
  match x with
  | .ok v => .ok v
  | .error e => if given.last then .error e else .ok otherwise

/-- The newest entry of a name in a scope. -/
def Pass.entry (p : Pass) (scope : Nat) (name : Name) : Option Symbol :=
  p.symbols.find? (fun e => e.scope == scope && e.name == name)

/-- The value of a name seen from an expansion: its own symbols, then those of the expansion it stands in, then the global ones
(R314 to R316). In a scope, a label of the earlier pass stands where this pass has no entry yet. -/
def lookupIn (given : Settings) (p : Pass) (scopes : List Nat) (name : Name) : Checked Word :=
  match scopes with
  | [] => .error (.unknownSymbol name)
  | s :: outer =>
    match (p.entry s name).orElse (fun _ => given.labels.find? (fun e => e.scope == s && e.name == name)) with
    | some e =>
      match e.value with
      | some v => .ok v
      | none => .error (.unknownSymbol name)
    | none => lookupIn given p outer name

/-- What an expression of the current statement refers to. -/
def contextOf (given : Settings) (p : Pass) (scopes : List Nat) : Context :=
  { here := p.counter, lookup := lookupIn given p scopes }

/-- Give a name a value in a scope. A label or an EQU name is given one once; a SET name again and again (R283, R305, R306).
DESIGN CHOICE where the spec leaves it open: a name that has a value of one kind in a scope, by a label, an EQU or a SET, is not
given one of another kind there; in particular EQU of a name already SET is a duplicate (log 41). -/
def Pass.define (p : Pass) (scope : Nat) (name : Name) (kind : SymbolKind) (value : Option Word) : Checked Pass :=
  if isReserved name then .error (.reservedLabel name)
  else
    match p.entry scope name with
    | some e =>
      if e.kind == .set && kind == .set then .ok { p with symbols := ⟨scope, name, kind, value⟩ :: p.symbols }
      else .error (.duplicate name)
    | none => .ok { p with symbols := ⟨scope, name, kind, value⟩ :: p.symbols }

/-- The scope of a SET: the global one if the name "has already been defined globally by another set statement", else the
current expansion (R316). -/
def Pass.setScope (p : Pass) (scope : Nat) (name : Name) : Nat :=
  match p.entry 0 name with
  | some e => if e.kind == .set then 0 else scope
  | none => scope

/-- Give the name of an EQU or a SET a value; a pass before the last may not know the value yet (R303, R305, R306, R315). -/
def Pass.defineNamed (p : Pass) (scope : Nat) (stmt : Statement) (kind : SymbolKind) (value : Option Word) : Checked Pass :=
  match stmt.name with
  | none => .error .badLabel
  | some name => p.define (if kind == .set then p.setScope scope name else scope) name kind value

/-- The address a label takes. On a pseudo-instruction "the label refers to the memory location immediately following the last
previously assembled machine instruction" (R303), or the location counter's value where there is none yet (log 39); on every
other statement, the location counter's value (R282, R320). -/
def Pass.labelAddress (p : Pass) (code : Option Name) : Word :=
  match code.bind pseudoOf with
  | some q => if q.isData then p.counter else p.afterInstruction.getD p.counter
  | none => p.counter

/-- Define a statement's label, if it has one: in the program's scope where two colons make it global (R314); on a
statement of the program itself they change nothing, a DESIGN CHOICE (log 42). -/
def Pass.defineLabel (p : Pass) (scope : Nat) (stmt : Statement) : Checked Pass :=
  match stmt.label with
  | none => .ok p
  | some (name, isGlobal) => p.define (if isGlobal then 0 else scope) name .label (some (p.labelAddress stmt.code))

/-- The statement that ends a range, ENDIF or ENDM: its operand field is unused, and it may have a label (R303, R308, R309). -/
def Pass.endRange (p : Pass) (scope : Nat) (line : List Lexeme) : Checked Pass := do
  let stmt ← parseStatement line
  if stmt.operands.isEmpty then p.defineLabel scope stmt else .error .badOperand

/-- Enter a definition: "Every macro must be defined once and only once in a program" (R310), and none in an expansion
(R309). -/
def Pass.addDefinition (p : Pass) (scopes : List Nat) (d : Definition) : Checked Pass :=
  if scopes.length ≠ 1 then .error .nestedDefinition
  else if isReserved d.name then .error (.reservedLabel d.name)
  else if p.definitions.any (fun e => e.name == d.name) then .error (.duplicate d.name)
  else .ok { p with definitions := d :: p.definitions }

/-! ## Bytes -/

/-- Place bytes at the location counter and advance it (R320). -/
def Pass.emit (p : Pass) : List Byte → Pass
  | [] => p
  | b :: rest => Pass.emit { p with counter := p.counter + 1#16, output := (p.counter, b) :: p.output } rest

/-- The codes of a string's characters (R289, R300). -/
def charCodes (text : List Char) : Checked (List Byte) :=
  text.mapM (fun c =>
    match asciiCode c with
    | some v => .ok v
    | none => .error .unstated)

/-- The bytes of one item of DB: a string's characters, or one expression's value (R300). -/
def dbItem (given : Settings) (ctx : Context) (item : List Lexeme) : Checked (List Byte) :=
  match item with
  | [⟨.chars text, _⟩] => charCodes text
  | _ => do return [← byteOf given.accepts (← evalWhole ctx item)]

/-- How many bytes an item of DB takes. -/
def dbItemLength (item : List Lexeme) : Nat :=
  match item with
  | [⟨.chars text, _⟩] => text.length
  | _ => 1

/-- The two bytes of an item of DW, the low one first (R301). -/
def dwItem (ctx : Context) (item : List Lexeme) : Checked (List Byte) := do
  let v ← evalWhole ctx item
  return [lowByte v, highByte v]

/-- Assemble `length` bytes: the bytes themselves in the last pass, their room before it. -/
def Pass.assembleBytes (p : Pass) (given : Settings) (length : Nat) (bytes : Checked (List Byte)) : Checked Pass :=
  if given.last then do return p.emit (← bytes)
  else .ok { p with counter := p.counter + BitVec.ofNat 16 length }

/-- DB and DW have one item or more (R300, R301). -/
def nonEmpty (items : List (List Lexeme)) : Checked (List (List Lexeme)) :=
  if items.isEmpty then .error .badOperand else .ok items

/-! ## Expansion (R311 to R317) -/

/-- What is put for a dummy parameter: a quoted parameter's characters; else the value the parameter has at the reference; else,
where it has none, its text. A parameter that is not there is a null string (R311, R312, R317, log 34). -/
def argument (ctx : Context) (arg : Option (List Lexeme)) : List Lexeme :=
  match arg with
  | none => []
  | some [⟨.chars text, _⟩] => tokenize text
  | some tokens =>
    match evalWhole ctx tokens, tokens with
    | .ok v, [x] => [⟨.bound v ((nameOf x.tok).getD []), true⟩]
    | .ok v, _ => [⟨.bound v [], true⟩]
    | .error _, _ => tokens

/-- The dummy parameters with what is put for them, first to first: parameters too many are ignored (R312). -/
def bindParams (ctx : Context) : List (List Lexeme) → List (List Lexeme) → List (List Lexeme × List Lexeme)
  | [], _ => []
  | dummy :: dummies, args => (dummy, argument ctx args.head?) :: bindParams ctx dummies args.tail

/-- A dummy parameter's tokens: "A list of expressions, normally ASCII constants" (R309), "usually unquoted character strings"
(R311). An ASCII constant stands for its characters, as it does in a reference (R317; log 37). -/
def dummyTokens (item : List Lexeme) : List Lexeme :=
  match item with
  | [⟨.chars text, _⟩] => tokenize text
  | _ => item

/-- The dummy parameters of a definition's operand field. -/
def dummyParams (operands : List Lexeme) : List (List Lexeme) := (itemsOf operands).map dummyTokens

/-- Whether two tokens are the same: a name is recognised by `symbolOf`. -/
def sameToken : Tok → Tok → Bool
  | .name x, .name y => symbolOf x == symbolOf y
  | t, u => t == u

/-- Whether the tokens begin with those of a dummy parameter; a null one marks no position. -/
def occursAt : List Lexeme → List Lexeme → Bool
  | [], _ => false
  | [d], x :: _ => sameToken d.tok x.tok
  | d :: dummy, x :: line => sameToken d.tok x.tok && occursAt dummy line
  | _, [] => false

/-- A line of the body with the parameters put for every occurrence of the dummy ones; `skip` tokens belong to an occurrence
already replaced. DESIGN CHOICE where the source leaves it open ("Substitution proceeds left to right", R312): all dummy
parameters are replaced at once, the first that occurs at a token there, and what was put is not looked through for a later
dummy parameter's name (log 37). -/
def substitute (bound : List (List Lexeme × List Lexeme)) (skip : Nat) : List Lexeme → List Lexeme
  | [] => []
  | x :: rest =>
    match skip with
    | n + 1 => substitute bound n rest
    | 0 =>
      match bound.find? (fun b => occursAt b.1 (x :: rest)) with
      | none => x :: substitute bound 0 rest
      | some (dummy, []) => substitute bound (dummy.length - 1) rest
      | some (dummy, y :: put) => { y with blankBefore := x.blankBefore } :: put ++ substitute bound (dummy.length - 1) rest

/-! ## A pass -/

/-- The value of the operand field's one expression. -/
def oneValue (ctx : Context) (operands : List Lexeme) : Checked Word :=
  match itemsOf operands with
  | [item] => evalWhole ctx item
  | _ => .error .badOperand

/-- The program's lines from here on, in the scopes `scopes` (the current expansion first), with `opened` IFs not ended. One unit
of fuel is one line. -/
def runLines (fuel : Nat) (given : Settings) (scopes : List Nat) (opened : Nat) (lines : List (List Lexeme)) (p : Pass) :
    Checked Pass :=
  match fuel, lines with
  | 0, _ => .error .tooLong
  | _ + 1, [] => if opened = 0 then .ok p else .error .unbalanced
  | fuel + 1, line :: rest => do
    let stmt ← given.tolerate {} (parseStatement line)
    let scope := scopes.headD 0
    let p ← given.tolerate p (p.defineLabel scope stmt)
    let ctx := contextOf given p scopes
    match stmt.code with
    | none => runLines fuel given scopes opened rest p
    | some code =>
      match formOf code with
      | some form => do
        let bytes := do return encode (← form.instr given.accepts (← (itemsOf stmt.operands).mapM (evalItem ctx)))
        let p ← p.assembleBytes given form.length bytes
        runLines fuel given scopes opened rest { p with afterInstruction := some p.counter }
      | none =>
        match pseudoOf code with
        | some .db => do
          let items ← given.tolerate [] (nonEmpty (itemsOf stmt.operands))
          let bytes := do return (← items.mapM (dbItem given ctx)).flatten
          runLines fuel given scopes opened rest (← p.assembleBytes given (items.map dbItemLength).sum bytes)
        | some .dw => do
          let items ← given.tolerate [] (nonEmpty (itemsOf stmt.operands))
          let bytes := do return (← items.mapM (dwItem ctx)).flatten
          runLines fuel given scopes opened rest (← p.assembleBytes given (2 * items.length) bytes)
        | some .ds => do
          let size ← given.tolerate 0#16 (oneValue ctx stmt.operands)
          runLines fuel given scopes opened rest { p with counter := p.counter + size }
        | some .org => do
          let origin ← given.tolerate p.counter (oneValue ctx stmt.operands)
          runLines fuel given scopes opened rest { p with counter := origin }
        | some .equ => do
          let value ← given.tolerate none (some <$> oneValue ctx stmt.operands)
          runLines fuel given scopes opened rest (← given.tolerate p (p.defineNamed scope stmt .equ value))
        | some .set => do
          let value ← given.tolerate none (some <$> oneValue ctx stmt.operands)
          runLines fuel given scopes opened rest (← given.tolerate p (p.defineNamed scope stmt .set value))
        | some .endCode =>
          if opened = 0 && scopes.length = 1 && stmt.operands.isEmpty && rest.all (fun l => (withoutComment l).isEmpty)
          then .ok { p with ended := true }
          else given.tolerate { p with ended := true } (.error .badEnd)
        | some .ifCode => do
          let value ← given.tolerate 0#16 (oneValue ctx stmt.operands)
          if value = 0#16 then do
            let (ending, after) ← skipToEndif 0 rest
            runLines fuel given scopes opened after (← given.tolerate p (p.endRange scope ending))
          else runLines fuel given scopes (opened + 1) rest p
        | some .endifCode =>
          match opened, stmt.operands with
          | 0, _ => .error .unbalanced
          | n + 1, [] => runLines fuel given scopes n rest p
          | _ + 1, _ :: _ => .error .badOperand
        | some .macroCode => do
          let (body, ending, after) ← takeBody rest
          match stmt.name with
          | none => .error .badLabel
          | some name => do
            let p ← given.tolerate p (p.addDefinition scopes ⟨name, dummyParams stmt.operands, body⟩)
            runLines fuel given scopes opened after (← given.tolerate p (p.endRange scope ending))
        | some .endmCode => .error .unbalanced
        | none =>
          match p.definitions.find? (fun d => d.name == symbolOf code) with
          | none => do runLines fuel given scopes opened rest (← given.tolerate p (.error (.unknownCode code)))
          | some d => do
            let inner := p.expansions + 1
            let body := d.body.map (substitute (bindParams ctx d.params (itemsOf stmt.operands)) 0)
            runLines fuel given scopes opened rest (← runLines fuel given (inner :: scopes) 0 body { p with expansions := inner })

/-! ## The object program -/

/-- The labels a pass found. -/
def Pass.labels (p : Pass) : List Symbol := p.symbols.filter (fun e => e.kind == .label)

/-- Passes until the labels they are given are the labels they find, each given those the one before found; then the last pass.
So a label may be used before the line that defines it (R283) wherever a value is wanted. Labels that do not settle have no
value (log 40). -/
def settle (rounds : Nat) (accepts : Word → Bool) (fuel : Nat) (lines : List (List Lexeme)) (labels : List Symbol) :
    Checked Pass :=
  match rounds with
  | 0 => .error .unstated
  | rounds + 1 =>
    match runLines fuel { accepts := accepts, labels := labels, last := true } [0] 0 lines {} with
    | .ok p => if p.labels = labels then .ok p else settle rounds accepts fuel lines p.labels
    | .error e => do
      let p ← runLines fuel { accepts := accepts, labels := labels, last := false } [0] 0 lines {}
      if p.labels = labels then .error e else settle rounds accepts fuel lines p.labels

/-- The object program of a source program: "the resulting set of (address, byte) pairs" (R320), in the order they are assembled.
`accepts` is `ASM_BYTE_RANGE` (D20); `fuel` bounds the lines after expansion and the passes. -/
def assemble (accepts : Word → Bool) (fuel : Nat) (source : List (List Char)) : Checked (List (Word × Byte)) := do
  let p ← settle fuel accepts fuel (source.map tokenize) []
  if p.ended then return p.output.reverse else .error .badEnd

/-- An object program loaded into memory: premise `P_LOADED` (`70_reset_and_hazards.md` R383) of the bytes it assembles. -/
def loadObject (mem : Machine.Memory) (object : List (Word × Byte)) : Machine.Memory :=
  object.foldl (fun m cell => m.write cell.1 cell.2) mem

end Sys2Proof.Asm
end

