-- ==== Sys2Proof/Laws/Assemble.lean ====
section
/-! SUPPORT. What the assembler's division, passes and substitution can do, each said once
(`49_assembler_pseudo_macros.md` R283, R296, R312, R320). -/

namespace Sys2Proof.Asm

/-- The operands with a quotient are not signed, and the divisor is not 0. -/
theorem divisible_spec {x y : Word} : divisible x y = true ↔ y ≠ 0#16 ∧ x.getLsbD 15 = false ∧ y.getLsbD 15 = false := by
  simp [divisible, and_assoc]

/-- A quotient, where there is one, is the exact quotient of operands that are not signed, "discarding any remainder". -/
theorem apply_div_spec {x y q : Word} (h : BinOp.apply .div x y = .ok q) :
    divisible x y = true ∧ q.toNat = x.toNat / y.toNat := by
  simp only [BinOp.apply] at h
  split at h
  · next hd =>
    cases h
    exact ⟨hd, BitVec.toNat_udiv⟩
  · cases h

/-- A remainder, where there is one, is the exact remainder of operands that are not signed. -/
theorem apply_mod_spec {x y r : Word} (h : BinOp.apply .mod x y = .ok r) :
    divisible x y = true ∧ r.toNat = x.toNat % y.toNat := by
  simp only [BinOp.apply] at h
  split at h
  · next hd =>
    cases h
    exact ⟨hd, BitVec.toNat_umod⟩
  · cases h

/-- The last pass takes no stand-in value. -/
@[simp] theorem Settings.tolerate_last {α : Type} {given : Settings} (h : given.last = true) (otherwise : α) (x : Checked α) :
    given.tolerate otherwise x = x := by
  cases x <;> simp [Settings.tolerate, h]

/-- What settles is a last pass that was given the very labels it found. -/
theorem settle_spec {rounds fuel : Nat} {accepts : Word → Bool} {lines : List (List Lexeme)} {labels : List Symbol} {p : Pass}
    (h : settle rounds accepts fuel lines labels = .ok p) :
    runLines fuel { accepts := accepts, labels := p.labels, last := true } [0] 0 lines {} = .ok p := by
  induction rounds generalizing labels with
  | zero => cases h
  | succ rounds ih =>
    unfold settle at h
    split at h
    · next q hq =>
      split at h
      · next hl =>
        cases h
        rw [hl]
        exact hq
      · exact ih h
    · next e he =>
      cases hq : runLines fuel { accepts := accepts, labels := labels, last := false } [0] 0 lines {} with
      | error e' => simp [hq, bind, Except.bind] at h
      | ok q =>
        simp only [hq, bind, Except.bind] at h
        split at h
        · cases h
        · exact ih h

/-- An object program is the output of a last pass that met END and was given the very labels it found. -/
theorem assemble_spec {accepts : Word → Bool} {fuel : Nat} {source : List (List Char)} {object : List (Word × Byte)}
    (h : assemble accepts fuel source = .ok object) :
    ∃ p, runLines fuel { accepts := accepts, labels := p.labels, last := true } [0] 0 (source.map tokenize) {} = .ok p ∧
      p.ended = true ∧ object = p.output.reverse := by
  unfold assemble at h
  cases hp : settle fuel accepts fuel (source.map tokenize) [] with
  | error e => simp [hp, bind, Except.bind] at h
  | ok p =>
    simp only [hp, bind, Except.bind] at h
    split at h
    · next he =>
      cases h
      exact ⟨p, settle_spec hp, he, rfl⟩
    · cases h

/-- With nothing to put, a line is as it was. -/
@[simp] theorem substitute_nil (line : List Lexeme) : substitute [] 0 line = line := by
  induction line with
  | nil => rfl
  | cons x rest ih => simp [substitute, ih]

end Sys2Proof.Asm
end

