-- ==== Sys2Proof/Laws/State.lean ====
section
/-! SUPPORT. What each update of the state does to each field: one lemma per field per update, for `simp`, so that no proof
unfolds a record update. -/

namespace Sys2Proof.Machine

variable (s : State)


/-! ## setA -/

@[simp] theorem State.setA_regs (v : Byte) : (s.setA v).regs = { s.regs with a := v } := rfl
@[simp] theorem State.setA_pc (v : Byte) : (s.setA v).pc = s.pc := rfl
@[simp] theorem State.setA_sp (v : Byte) : (s.setA v).sp = s.sp := rfl
@[simp] theorem State.setA_flags (v : Byte) : (s.setA v).flags = s.flags := rfl
@[simp] theorem State.setA_inte (v : Byte) : (s.setA v).inte = s.inte := rfl
@[simp] theorem State.setA_run (v : Byte) : (s.setA v).run = s.run := rfl
@[simp] theorem State.setA_mem (v : Byte) : (s.setA v).mem = s.mem := rfl
@[simp] theorem State.setA_memMap (v : Byte) : (s.setA v).memMap = s.memMap := rfl
@[simp] theorem State.setA_outTrace (v : Byte) : (s.setA v).outTrace = s.outTrace := rfl
@[simp] theorem State.setA_inCount (v : Byte) : (s.setA v).inCount = s.inCount := rfl
@[simp] theorem State.setA_boundary (v : Byte) : (s.setA v).boundary = s.boundary := rfl
@[simp] theorem State.setA_irq (v : Byte) : (s.setA v).irq = s.irq := rfl
@[simp] theorem State.setA_inputs (v : Byte) : (s.setA v).inputs = s.inputs := rfl
@[simp] theorem State.setA_absentReads (v : Byte) : (s.setA v).absentReads = s.absentReads := rfl

/-! ## setFlags -/

@[simp] theorem State.setFlags_regs (f : Flags) : (s.setFlags f).regs = s.regs := rfl
@[simp] theorem State.setFlags_pc (f : Flags) : (s.setFlags f).pc = s.pc := rfl
@[simp] theorem State.setFlags_sp (f : Flags) : (s.setFlags f).sp = s.sp := rfl
@[simp] theorem State.setFlags_flags (f : Flags) : (s.setFlags f).flags = f := rfl
@[simp] theorem State.setFlags_inte (f : Flags) : (s.setFlags f).inte = s.inte := rfl
@[simp] theorem State.setFlags_run (f : Flags) : (s.setFlags f).run = s.run := rfl
@[simp] theorem State.setFlags_mem (f : Flags) : (s.setFlags f).mem = s.mem := rfl
@[simp] theorem State.setFlags_memMap (f : Flags) : (s.setFlags f).memMap = s.memMap := rfl
@[simp] theorem State.setFlags_outTrace (f : Flags) : (s.setFlags f).outTrace = s.outTrace := rfl
@[simp] theorem State.setFlags_inCount (f : Flags) : (s.setFlags f).inCount = s.inCount := rfl
@[simp] theorem State.setFlags_boundary (f : Flags) : (s.setFlags f).boundary = s.boundary := rfl
@[simp] theorem State.setFlags_irq (f : Flags) : (s.setFlags f).irq = s.irq := rfl
@[simp] theorem State.setFlags_inputs (f : Flags) : (s.setFlags f).inputs = s.inputs := rfl
@[simp] theorem State.setFlags_absentReads (f : Flags) : (s.setFlags f).absentReads = s.absentReads := rfl

/-! ## setCarry -/

@[simp] theorem State.setCarry_regs (v : Bool) : (s.setCarry v).regs = s.regs := rfl
@[simp] theorem State.setCarry_pc (v : Bool) : (s.setCarry v).pc = s.pc := rfl
@[simp] theorem State.setCarry_sp (v : Bool) : (s.setCarry v).sp = s.sp := rfl
@[simp] theorem State.setCarry_flags (v : Bool) : (s.setCarry v).flags = { s.flags with cy := v } := rfl
@[simp] theorem State.setCarry_inte (v : Bool) : (s.setCarry v).inte = s.inte := rfl
@[simp] theorem State.setCarry_run (v : Bool) : (s.setCarry v).run = s.run := rfl
@[simp] theorem State.setCarry_mem (v : Bool) : (s.setCarry v).mem = s.mem := rfl
@[simp] theorem State.setCarry_memMap (v : Bool) : (s.setCarry v).memMap = s.memMap := rfl
@[simp] theorem State.setCarry_outTrace (v : Bool) : (s.setCarry v).outTrace = s.outTrace := rfl
@[simp] theorem State.setCarry_inCount (v : Bool) : (s.setCarry v).inCount = s.inCount := rfl
@[simp] theorem State.setCarry_boundary (v : Bool) : (s.setCarry v).boundary = s.boundary := rfl
@[simp] theorem State.setCarry_irq (v : Bool) : (s.setCarry v).irq = s.irq := rfl
@[simp] theorem State.setCarry_inputs (v : Bool) : (s.setCarry v).inputs = s.inputs := rfl
@[simp] theorem State.setCarry_absentReads (v : Bool) : (s.setCarry v).absentReads = s.absentReads := rfl

/-! ## accumulate -/

@[simp] theorem State.accumulate_regs (r : AluResult) : (s.accumulate r).regs = { s.regs with a := r.res } := rfl
@[simp] theorem State.accumulate_pc (r : AluResult) : (s.accumulate r).pc = s.pc := rfl
@[simp] theorem State.accumulate_sp (r : AluResult) : (s.accumulate r).sp = s.sp := rfl
@[simp] theorem State.accumulate_flags (r : AluResult) : (s.accumulate r).flags = r.flags := rfl
@[simp] theorem State.accumulate_inte (r : AluResult) : (s.accumulate r).inte = s.inte := rfl
@[simp] theorem State.accumulate_run (r : AluResult) : (s.accumulate r).run = s.run := rfl
@[simp] theorem State.accumulate_mem (r : AluResult) : (s.accumulate r).mem = s.mem := rfl
@[simp] theorem State.accumulate_memMap (r : AluResult) : (s.accumulate r).memMap = s.memMap := rfl
@[simp] theorem State.accumulate_outTrace (r : AluResult) : (s.accumulate r).outTrace = s.outTrace := rfl
@[simp] theorem State.accumulate_inCount (r : AluResult) : (s.accumulate r).inCount = s.inCount := rfl
@[simp] theorem State.accumulate_boundary (r : AluResult) : (s.accumulate r).boundary = s.boundary := rfl
@[simp] theorem State.accumulate_irq (r : AluResult) : (s.accumulate r).irq = s.irq := rfl
@[simp] theorem State.accumulate_inputs (r : AluResult) : (s.accumulate r).inputs = s.inputs := rfl
@[simp] theorem State.accumulate_absentReads (r : AluResult) : (s.accumulate r).absentReads = s.absentReads := rfl

/-! ## compare -/

@[simp] theorem State.compare_regs (r : AluResult) : (s.compare r).regs = s.regs := rfl
@[simp] theorem State.compare_pc (r : AluResult) : (s.compare r).pc = s.pc := rfl
@[simp] theorem State.compare_sp (r : AluResult) : (s.compare r).sp = s.sp := rfl
@[simp] theorem State.compare_flags (r : AluResult) : (s.compare r).flags = r.flags := rfl
@[simp] theorem State.compare_inte (r : AluResult) : (s.compare r).inte = s.inte := rfl
@[simp] theorem State.compare_run (r : AluResult) : (s.compare r).run = s.run := rfl
@[simp] theorem State.compare_mem (r : AluResult) : (s.compare r).mem = s.mem := rfl
@[simp] theorem State.compare_memMap (r : AluResult) : (s.compare r).memMap = s.memMap := rfl
@[simp] theorem State.compare_outTrace (r : AluResult) : (s.compare r).outTrace = s.outTrace := rfl
@[simp] theorem State.compare_inCount (r : AluResult) : (s.compare r).inCount = s.inCount := rfl
@[simp] theorem State.compare_boundary (r : AluResult) : (s.compare r).boundary = s.boundary := rfl
@[simp] theorem State.compare_irq (r : AluResult) : (s.compare r).irq = s.irq := rfl
@[simp] theorem State.compare_inputs (r : AluResult) : (s.compare r).inputs = s.inputs := rfl
@[simp] theorem State.compare_absentReads (r : AluResult) : (s.compare r).absentReads = s.absentReads := rfl

/-! ## logical -/

@[simp] theorem State.logical_regs (v : Byte) : (s.logical v).regs = { s.regs with a := v } := rfl
@[simp] theorem State.logical_pc (v : Byte) : (s.logical v).pc = s.pc := rfl
@[simp] theorem State.logical_sp (v : Byte) : (s.logical v).sp = s.sp := rfl
@[simp] theorem State.logical_flags (v : Byte) : (s.logical v).flags = s.flags.logical v := rfl
@[simp] theorem State.logical_inte (v : Byte) : (s.logical v).inte = s.inte := rfl
@[simp] theorem State.logical_run (v : Byte) : (s.logical v).run = s.run := rfl
@[simp] theorem State.logical_mem (v : Byte) : (s.logical v).mem = s.mem := rfl
@[simp] theorem State.logical_memMap (v : Byte) : (s.logical v).memMap = s.memMap := rfl
@[simp] theorem State.logical_outTrace (v : Byte) : (s.logical v).outTrace = s.outTrace := rfl
@[simp] theorem State.logical_inCount (v : Byte) : (s.logical v).inCount = s.inCount := rfl
@[simp] theorem State.logical_boundary (v : Byte) : (s.logical v).boundary = s.boundary := rfl
@[simp] theorem State.logical_irq (v : Byte) : (s.logical v).irq = s.irq := rfl
@[simp] theorem State.logical_inputs (v : Byte) : (s.logical v).inputs = s.inputs := rfl
@[simp] theorem State.logical_absentReads (v : Byte) : (s.logical v).absentReads = s.absentReads := rfl

/-! ## rotate -/

@[simp] theorem State.rotate_regs (v : Byte) (c : Bool) : (s.rotate v c).regs = { s.regs with a := v } := rfl
@[simp] theorem State.rotate_pc (v : Byte) (c : Bool) : (s.rotate v c).pc = s.pc := rfl
@[simp] theorem State.rotate_sp (v : Byte) (c : Bool) : (s.rotate v c).sp = s.sp := rfl
@[simp] theorem State.rotate_flags (v : Byte) (c : Bool) : (s.rotate v c).flags = { s.flags with cy := c } := rfl
@[simp] theorem State.rotate_inte (v : Byte) (c : Bool) : (s.rotate v c).inte = s.inte := rfl
@[simp] theorem State.rotate_run (v : Byte) (c : Bool) : (s.rotate v c).run = s.run := rfl
@[simp] theorem State.rotate_mem (v : Byte) (c : Bool) : (s.rotate v c).mem = s.mem := rfl
@[simp] theorem State.rotate_memMap (v : Byte) (c : Bool) : (s.rotate v c).memMap = s.memMap := rfl
@[simp] theorem State.rotate_outTrace (v : Byte) (c : Bool) : (s.rotate v c).outTrace = s.outTrace := rfl
@[simp] theorem State.rotate_inCount (v : Byte) (c : Bool) : (s.rotate v c).inCount = s.inCount := rfl
@[simp] theorem State.rotate_boundary (v : Byte) (c : Bool) : (s.rotate v c).boundary = s.boundary := rfl
@[simp] theorem State.rotate_irq (v : Byte) (c : Bool) : (s.rotate v c).irq = s.irq := rfl
@[simp] theorem State.rotate_inputs (v : Byte) (c : Bool) : (s.rotate v c).inputs = s.inputs := rfl
@[simp] theorem State.rotate_absentReads (v : Byte) (c : Bool) : (s.rotate v c).absentReads = s.absentReads := rfl

/-! ## output -/

@[simp] theorem State.output_regs (dev v : Byte) : (s.output dev v).regs = s.regs := rfl
@[simp] theorem State.output_pc (dev v : Byte) : (s.output dev v).pc = s.pc := rfl
@[simp] theorem State.output_sp (dev v : Byte) : (s.output dev v).sp = s.sp := rfl
@[simp] theorem State.output_flags (dev v : Byte) : (s.output dev v).flags = s.flags := rfl
@[simp] theorem State.output_inte (dev v : Byte) : (s.output dev v).inte = s.inte := rfl
@[simp] theorem State.output_run (dev v : Byte) : (s.output dev v).run = s.run := rfl
@[simp] theorem State.output_mem (dev v : Byte) : (s.output dev v).mem = s.mem := rfl
@[simp] theorem State.output_memMap (dev v : Byte) : (s.output dev v).memMap = s.memMap := rfl
@[simp] theorem State.output_outTrace (dev v : Byte) : (s.output dev v).outTrace = s.outTrace ++ [(dev, v)] := rfl
@[simp] theorem State.output_inCount (dev v : Byte) : (s.output dev v).inCount = s.inCount := rfl
@[simp] theorem State.output_boundary (dev v : Byte) : (s.output dev v).boundary = s.boundary := rfl
@[simp] theorem State.output_irq (dev v : Byte) : (s.output dev v).irq = s.irq := rfl
@[simp] theorem State.output_inputs (dev v : Byte) : (s.output dev v).inputs = s.inputs := rfl
@[simp] theorem State.output_absentReads (dev v : Byte) : (s.output dev v).absentReads = s.absentReads := rfl

/-! ## nextBoundary -/

@[simp] theorem State.nextBoundary_regs : (s.nextBoundary).regs = s.regs := rfl
@[simp] theorem State.nextBoundary_pc : (s.nextBoundary).pc = s.pc := rfl
@[simp] theorem State.nextBoundary_sp : (s.nextBoundary).sp = s.sp := rfl
@[simp] theorem State.nextBoundary_flags : (s.nextBoundary).flags = s.flags := rfl
@[simp] theorem State.nextBoundary_inte : (s.nextBoundary).inte = s.inte := rfl
@[simp] theorem State.nextBoundary_run : (s.nextBoundary).run = s.run := rfl
@[simp] theorem State.nextBoundary_mem : (s.nextBoundary).mem = s.mem := rfl
@[simp] theorem State.nextBoundary_memMap : (s.nextBoundary).memMap = s.memMap := rfl
@[simp] theorem State.nextBoundary_outTrace : (s.nextBoundary).outTrace = s.outTrace := rfl
@[simp] theorem State.nextBoundary_inCount : (s.nextBoundary).inCount = s.inCount := rfl
@[simp] theorem State.nextBoundary_boundary : (s.nextBoundary).boundary = s.boundary + 1 := rfl
@[simp] theorem State.nextBoundary_irq : (s.nextBoundary).irq = s.irq := rfl
@[simp] theorem State.nextBoundary_inputs : (s.nextBoundary).inputs = s.inputs := rfl
@[simp] theorem State.nextBoundary_absentReads : (s.nextBoundary).absentReads = s.absentReads := rfl

/-! ## accept -/

@[simp] theorem State.accept_regs : (s.accept).regs = s.regs := rfl
@[simp] theorem State.accept_pc : (s.accept).pc = s.pc := rfl
@[simp] theorem State.accept_sp : (s.accept).sp = s.sp := rfl
@[simp] theorem State.accept_flags : (s.accept).flags = s.flags := rfl
@[simp] theorem State.accept_inte : (s.accept).inte = false := rfl
@[simp] theorem State.accept_run : (s.accept).run = .running := rfl
@[simp] theorem State.accept_mem : (s.accept).mem = s.mem := rfl
@[simp] theorem State.accept_memMap : (s.accept).memMap = s.memMap := rfl
@[simp] theorem State.accept_outTrace : (s.accept).outTrace = s.outTrace := rfl
@[simp] theorem State.accept_inCount : (s.accept).inCount = s.inCount := rfl
@[simp] theorem State.accept_boundary : (s.accept).boundary = s.boundary := rfl
@[simp] theorem State.accept_irq : (s.accept).irq = s.irq := rfl
@[simp] theorem State.accept_inputs : (s.accept).inputs = s.inputs := rfl
@[simp] theorem State.accept_absentReads : (s.accept).absentReads = s.absentReads := rfl

/-! ## afterRead -/

@[simp] theorem State.afterRead_regs (adr : Word) : (s.afterRead adr).regs = s.regs := by unfold State.afterRead; split <;> rfl
@[simp] theorem State.afterRead_pc (adr : Word) : (s.afterRead adr).pc = s.pc := by unfold State.afterRead; split <;> rfl
@[simp] theorem State.afterRead_sp (adr : Word) : (s.afterRead adr).sp = s.sp := by unfold State.afterRead; split <;> rfl
@[simp] theorem State.afterRead_flags (adr : Word) : (s.afterRead adr).flags = s.flags := by unfold State.afterRead; split <;> rfl
@[simp] theorem State.afterRead_inte (adr : Word) : (s.afterRead adr).inte = s.inte := by unfold State.afterRead; split <;> rfl
@[simp] theorem State.afterRead_run (adr : Word) : (s.afterRead adr).run = s.run := by unfold State.afterRead; split <;> rfl
@[simp] theorem State.afterRead_mem (adr : Word) : (s.afterRead adr).mem = s.mem := by unfold State.afterRead; split <;> rfl
@[simp] theorem State.afterRead_memMap (adr : Word) : (s.afterRead adr).memMap = s.memMap := by unfold State.afterRead; split <;> rfl
@[simp] theorem State.afterRead_outTrace (adr : Word) : (s.afterRead adr).outTrace = s.outTrace := by unfold State.afterRead; split <;> rfl
@[simp] theorem State.afterRead_inCount (adr : Word) : (s.afterRead adr).inCount = s.inCount := by unfold State.afterRead; split <;> rfl
@[simp] theorem State.afterRead_boundary (adr : Word) : (s.afterRead adr).boundary = s.boundary := by unfold State.afterRead; split <;> rfl
@[simp] theorem State.afterRead_irq (adr : Word) : (s.afterRead adr).irq = s.irq := by unfold State.afterRead; split <;> rfl
@[simp] theorem State.afterRead_inputs (adr : Word) : (s.afterRead adr).inputs = s.inputs := by unfold State.afterRead; split <;> rfl

/-! ## writeByte -/

@[simp] theorem State.writeByte_regs (adr : Word) (v : Byte) : (s.writeByte adr v).regs = s.regs := by unfold State.writeByte; split <;> rfl
@[simp] theorem State.writeByte_pc (adr : Word) (v : Byte) : (s.writeByte adr v).pc = s.pc := by unfold State.writeByte; split <;> rfl
@[simp] theorem State.writeByte_sp (adr : Word) (v : Byte) : (s.writeByte adr v).sp = s.sp := by unfold State.writeByte; split <;> rfl
@[simp] theorem State.writeByte_flags (adr : Word) (v : Byte) : (s.writeByte adr v).flags = s.flags := by unfold State.writeByte; split <;> rfl
@[simp] theorem State.writeByte_inte (adr : Word) (v : Byte) : (s.writeByte adr v).inte = s.inte := by unfold State.writeByte; split <;> rfl
@[simp] theorem State.writeByte_run (adr : Word) (v : Byte) : (s.writeByte adr v).run = s.run := by unfold State.writeByte; split <;> rfl
@[simp] theorem State.writeByte_memMap (adr : Word) (v : Byte) : (s.writeByte adr v).memMap = s.memMap := by unfold State.writeByte; split <;> rfl
@[simp] theorem State.writeByte_outTrace (adr : Word) (v : Byte) : (s.writeByte adr v).outTrace = s.outTrace := by unfold State.writeByte; split <;> rfl
@[simp] theorem State.writeByte_inCount (adr : Word) (v : Byte) : (s.writeByte adr v).inCount = s.inCount := by unfold State.writeByte; split <;> rfl
@[simp] theorem State.writeByte_boundary (adr : Word) (v : Byte) : (s.writeByte adr v).boundary = s.boundary := by unfold State.writeByte; split <;> rfl
@[simp] theorem State.writeByte_irq (adr : Word) (v : Byte) : (s.writeByte adr v).irq = s.irq := by unfold State.writeByte; split <;> rfl
@[simp] theorem State.writeByte_inputs (adr : Word) (v : Byte) : (s.writeByte adr v).inputs = s.inputs := by unfold State.writeByte; split <;> rfl
@[simp] theorem State.writeByte_absentReads (adr : Word) (v : Byte) : (s.writeByte adr v).absentReads = s.absentReads := by unfold State.writeByte; split <;> rfl

/-! ## afterOperand -/

@[simp] theorem State.afterOperand_regs (r : R8) : (s.afterOperand r).regs = s.regs := by cases r <;> simp [State.afterOperand]
@[simp] theorem State.afterOperand_pc (r : R8) : (s.afterOperand r).pc = s.pc := by cases r <;> simp [State.afterOperand]
@[simp] theorem State.afterOperand_sp (r : R8) : (s.afterOperand r).sp = s.sp := by cases r <;> simp [State.afterOperand]
@[simp] theorem State.afterOperand_flags (r : R8) : (s.afterOperand r).flags = s.flags := by cases r <;> simp [State.afterOperand]
@[simp] theorem State.afterOperand_inte (r : R8) : (s.afterOperand r).inte = s.inte := by cases r <;> simp [State.afterOperand]
@[simp] theorem State.afterOperand_run (r : R8) : (s.afterOperand r).run = s.run := by cases r <;> simp [State.afterOperand]
@[simp] theorem State.afterOperand_mem (r : R8) : (s.afterOperand r).mem = s.mem := by cases r <;> simp [State.afterOperand]
@[simp] theorem State.afterOperand_memMap (r : R8) : (s.afterOperand r).memMap = s.memMap := by cases r <;> simp [State.afterOperand]
@[simp] theorem State.afterOperand_outTrace (r : R8) : (s.afterOperand r).outTrace = s.outTrace := by cases r <;> simp [State.afterOperand]
@[simp] theorem State.afterOperand_inCount (r : R8) : (s.afterOperand r).inCount = s.inCount := by cases r <;> simp [State.afterOperand]
@[simp] theorem State.afterOperand_boundary (r : R8) : (s.afterOperand r).boundary = s.boundary := by cases r <;> simp [State.afterOperand]
@[simp] theorem State.afterOperand_irq (r : R8) : (s.afterOperand r).irq = s.irq := by cases r <;> simp [State.afterOperand]
@[simp] theorem State.afterOperand_inputs (r : R8) : (s.afterOperand r).inputs = s.inputs := by cases r <;> simp [State.afterOperand]

/-! ## writeR8 -/

@[simp] theorem State.writeR8_pc (r : R8) (v : Byte) : (s.writeR8 r v).pc = s.pc := by cases r <;> simp [State.writeR8]
@[simp] theorem State.writeR8_sp (r : R8) (v : Byte) : (s.writeR8 r v).sp = s.sp := by cases r <;> simp [State.writeR8]
@[simp] theorem State.writeR8_flags (r : R8) (v : Byte) : (s.writeR8 r v).flags = s.flags := by cases r <;> simp [State.writeR8]
@[simp] theorem State.writeR8_inte (r : R8) (v : Byte) : (s.writeR8 r v).inte = s.inte := by cases r <;> simp [State.writeR8]
@[simp] theorem State.writeR8_run (r : R8) (v : Byte) : (s.writeR8 r v).run = s.run := by cases r <;> simp [State.writeR8]
@[simp] theorem State.writeR8_memMap (r : R8) (v : Byte) : (s.writeR8 r v).memMap = s.memMap := by cases r <;> simp [State.writeR8]
@[simp] theorem State.writeR8_outTrace (r : R8) (v : Byte) : (s.writeR8 r v).outTrace = s.outTrace := by cases r <;> simp [State.writeR8]
@[simp] theorem State.writeR8_inCount (r : R8) (v : Byte) : (s.writeR8 r v).inCount = s.inCount := by cases r <;> simp [State.writeR8]
@[simp] theorem State.writeR8_boundary (r : R8) (v : Byte) : (s.writeR8 r v).boundary = s.boundary := by cases r <;> simp [State.writeR8]
@[simp] theorem State.writeR8_irq (r : R8) (v : Byte) : (s.writeR8 r v).irq = s.irq := by cases r <;> simp [State.writeR8]
@[simp] theorem State.writeR8_inputs (r : R8) (v : Byte) : (s.writeR8 r v).inputs = s.inputs := by cases r <;> simp [State.writeR8]
@[simp] theorem State.writeR8_absentReads (r : R8) (v : Byte) : (s.writeR8 r v).absentReads = s.absentReads := by cases r <;> simp [State.writeR8]

/-! ## setPair -/

@[simp] theorem State.setPair_pc (rp : RegPair) (v : Word) : (s.setPair rp v).pc = s.pc := by cases rp <;> rfl
@[simp] theorem State.setPair_flags (rp : RegPair) (v : Word) : (s.setPair rp v).flags = s.flags := by cases rp <;> rfl
@[simp] theorem State.setPair_inte (rp : RegPair) (v : Word) : (s.setPair rp v).inte = s.inte := by cases rp <;> rfl
@[simp] theorem State.setPair_run (rp : RegPair) (v : Word) : (s.setPair rp v).run = s.run := by cases rp <;> rfl
@[simp] theorem State.setPair_mem (rp : RegPair) (v : Word) : (s.setPair rp v).mem = s.mem := by cases rp <;> rfl
@[simp] theorem State.setPair_memMap (rp : RegPair) (v : Word) : (s.setPair rp v).memMap = s.memMap := by cases rp <;> rfl
@[simp] theorem State.setPair_outTrace (rp : RegPair) (v : Word) : (s.setPair rp v).outTrace = s.outTrace := by cases rp <;> rfl
@[simp] theorem State.setPair_inCount (rp : RegPair) (v : Word) : (s.setPair rp v).inCount = s.inCount := by cases rp <;> rfl
@[simp] theorem State.setPair_boundary (rp : RegPair) (v : Word) : (s.setPair rp v).boundary = s.boundary := by cases rp <;> rfl
@[simp] theorem State.setPair_irq (rp : RegPair) (v : Word) : (s.setPair rp v).irq = s.irq := by cases rp <;> rfl
@[simp] theorem State.setPair_inputs (rp : RegPair) (v : Word) : (s.setPair rp v).inputs = s.inputs := by cases rp <;> rfl
@[simp] theorem State.setPair_absentReads (rp : RegPair) (v : Word) : (s.setPair rp v).absentReads = s.absentReads := by cases rp <;> rfl

/-! ## setStackPair -/

@[simp] theorem State.setStackPair_pc (rp : StackPair) (x y : Byte) : (s.setStackPair rp x y).pc = s.pc := by cases rp <;> rfl
@[simp] theorem State.setStackPair_sp (rp : StackPair) (x y : Byte) : (s.setStackPair rp x y).sp = s.sp := by cases rp <;> rfl
@[simp] theorem State.setStackPair_inte (rp : StackPair) (x y : Byte) : (s.setStackPair rp x y).inte = s.inte := by cases rp <;> rfl
@[simp] theorem State.setStackPair_run (rp : StackPair) (x y : Byte) : (s.setStackPair rp x y).run = s.run := by cases rp <;> rfl
@[simp] theorem State.setStackPair_mem (rp : StackPair) (x y : Byte) : (s.setStackPair rp x y).mem = s.mem := by cases rp <;> rfl
@[simp] theorem State.setStackPair_memMap (rp : StackPair) (x y : Byte) : (s.setStackPair rp x y).memMap = s.memMap := by cases rp <;> rfl
@[simp] theorem State.setStackPair_outTrace (rp : StackPair) (x y : Byte) : (s.setStackPair rp x y).outTrace = s.outTrace := by cases rp <;> rfl
@[simp] theorem State.setStackPair_inCount (rp : StackPair) (x y : Byte) : (s.setStackPair rp x y).inCount = s.inCount := by cases rp <;> rfl
@[simp] theorem State.setStackPair_boundary (rp : StackPair) (x y : Byte) : (s.setStackPair rp x y).boundary = s.boundary := by cases rp <;> rfl
@[simp] theorem State.setStackPair_irq (rp : StackPair) (x y : Byte) : (s.setStackPair rp x y).irq = s.irq := by cases rp <;> rfl
@[simp] theorem State.setStackPair_inputs (rp : StackPair) (x y : Byte) : (s.setStackPair rp x y).inputs = s.inputs := by cases rp <;> rfl
@[simp] theorem State.setStackPair_absentReads (rp : StackPair) (x y : Byte) : (s.setStackPair rp x y).absentReads = s.absentReads := by cases rp <;> rfl

end Sys2Proof.Machine
end

