-- ==== Sys2Proof/Laws/Memory.lean ====
section
/-! SUPPORT. Memory: read after write, other addresses unchanged, and the canonical form kept by every operation. -/

namespace Sys2Proof.Machine

/-! ## The list of cells -/

@[simp] theorem Memory.lookup_nil (key : Nat) : Memory.lookup [] key = none := rfl

/-- A key just stored is found. -/
theorem Memory.lookup_insert_self (m : Memory) (key : Nat) (v : Byte) : (m.insert key v).lookup key = some v := by
  induction m with
  | nil => simp [Memory.insert, Memory.lookup]
  | cons c rest ih =>
    obtain ⟨k, w⟩ := c
    unfold Memory.insert
    split
    · simp [Memory.lookup]
    · split
      · simp [Memory.lookup]
      · rename_i h1 h2
        have : k ≠ key := fun h => h2 h.symm
        simp [Memory.lookup, this, ih]

/-- Every other key is as it was. -/
theorem Memory.lookup_insert_ne (m : Memory) (key other : Nat) (v : Byte) (h : other ≠ key) :
    (m.insert key v).lookup other = m.lookup other := by
  induction m with
  | nil => simp [Memory.insert, Memory.lookup, Ne.symm h]
  | cons c rest ih =>
    obtain ⟨k, w⟩ := c
    unfold Memory.insert
    split
    · simp [Memory.lookup, Ne.symm h]
    · split
      · rename_i h1 h2
        subst h2
        simp [Memory.lookup, Ne.symm h]
      · simp only [Memory.lookup, ih]

/-- Every cell after a store is the stored one or was there. -/
theorem Memory.mem_insert {m : Memory} {key : Nat} {v : Byte} {c : Host.Cell} (h : c ∈ m.insert key v) :
    c = (key, v) ∨ c ∈ m := by
  induction m with
  | nil => simp only [Memory.insert, List.mem_singleton] at h; exact .inl h
  | cons x rest ih =>
    obtain ⟨k, w⟩ := x
    unfold Memory.insert at h
    split at h
    · simpa using h
    · split at h
      · simp only [List.mem_cons] at h ⊢
        rcases h with h | h
        · exact .inl h
        · exact .inr (.inr h)
      · simp only [List.mem_cons] at h ⊢
        rcases h with h | h
        · exact .inr (.inl h)
        · rcases ih h with h | h
          · exact .inl h
          · exact .inr (.inr h)

/-- A store keeps the addresses strictly rising. -/
theorem Memory.pairwise_insert {m : Memory} (h : m.Pairwise (fun x y => x.1 < y.1)) (key : Nat) (v : Byte) :
    (m.insert key v).Pairwise (fun x y => x.1 < y.1) := by
  induction m with
  | nil => simp [Memory.insert]
  | cons c rest ih =>
    obtain ⟨k, w⟩ := c
    obtain ⟨hk, hr⟩ := List.pairwise_cons.mp h
    unfold Memory.insert
    split
    · rename_i hlt
      refine List.pairwise_cons.mpr ⟨fun y hy => ?_, h⟩
      rcases List.mem_cons.mp hy with rfl | hy
      · exact hlt
      · exact Nat.lt_trans hlt (hk y hy)
    · split
      · rename_i heq
        subst heq
        exact List.pairwise_cons.mpr ⟨hk, hr⟩
      · rename_i h1 h2
        refine List.pairwise_cons.mpr ⟨fun y hy => ?_, ih hr⟩
        rcases Memory.mem_insert hy with rfl | hy
        · exact Nat.lt_of_le_of_ne (Nat.le_of_not_lt h1) (fun e => h2 e.symm)
        · exact hk y hy

/-- A store inside the address space keeps the canonical form. -/
theorem Memory.wf_insert {m : Memory} (h : m.wf) {key : Nat} (hk : key < 65536) (v : Byte) : (m.insert key v).wf := by
  refine ⟨Memory.pairwise_insert h.1 key v, fun x hx => ?_⟩
  rcases Memory.mem_insert hx with rfl | hx
  · exact hk
  · exact h.2 x hx

/-- A write keeps the canonical form. -/
theorem Memory.wf_write {m : Memory} (h : m.wf) (adr : Word) (v : Byte) : (m.write adr v).wf :=
  Memory.wf_insert h adr.isLt v

/-- The address written reads as the byte written. -/
@[simp] theorem Memory.read_write_self (m : Memory) (adr : Word) (v : Byte) : (m.write adr v).read adr = v := by
  simp [Memory.read, Memory.write, Memory.lookup_insert_self]

/-- Every other address reads as it did. -/
theorem Memory.read_write_ne (m : Memory) (adr other : Word) (v : Byte) (h : other ≠ adr) :
    (m.write adr v).read other = m.read other := by
  have : other.toNat ≠ adr.toNat := fun e => h (BitVec.eq_of_toNat_eq e)
  simp [Memory.read, Memory.write, Memory.lookup_insert_ne _ _ _ _ this]

/-- A read after a write, in one rule. -/
theorem Memory.read_write (m : Memory) (adr other : Word) (v : Byte) :
    (m.write adr v).read other = if other = adr then v else m.read other := by
  split
  · rename_i h; subst h; simp
  · rename_i h; exact Memory.read_write_ne m adr other v h

/-- A load keeps the canonical form. -/
theorem Memory.wf_load {m : Memory} (h : m.wf) (adr : Word) (bytes : List Byte) : (m.load adr bytes).wf := by
  induction bytes generalizing m adr with
  | nil => exact h
  | cons b rest ih => exact ih (Memory.wf_write h adr b) _

/-- Reset memory has the canonical form. -/
theorem reset_mem_wf : State.reset.mem.wf := by decide

/-! ## Accesses of the state -/

/-- A store, in one rule: read/write memory takes the byte, nothing else changes (`20_memory.md` R45). -/
theorem State.writeByte_eq (s : State) (adr : Word) (v : Byte) :
    s.writeByte adr v = { s with mem := if s.kind adr = .rw then s.mem.write adr v else s.mem } := by
  unfold State.writeByte
  split <;> simp_all

/-- What a byte of memory holds after a store (R45). -/
theorem State.writeByte_read (s : State) (adr other : Word) (v : Byte) :
    (s.writeByte adr v).mem.read other = if other = adr ∧ s.kind adr = .rw then v else s.mem.read other := by
  rw [State.writeByte_eq]
  by_cases hk : s.kind adr = .rw <;> simp [hk, Memory.read_write]

/-- A store keeps the canonical form. -/
theorem State.writeByte_wf {s : State} (h : s.mem.wf) (adr : Word) (v : Byte) : (s.writeByte adr v).mem.wf := by
  rw [State.writeByte_eq]
  by_cases hk : s.kind adr = .rw
  · simpa [hk] using Memory.wf_write h adr v
  · simpa [hk] using h

/-- A read, in one rule: the state is as it was but for the free value an ABSENT address uses up (R44). -/
theorem State.afterRead_eq (s : State) (adr : Word) :
    s.afterRead adr = { s with absentReads := s.absentReads + if s.kind adr = .absent then 1 else 0 } := by
  unfold State.afterRead
  split <;> simp_all

/-- The kind of an address depends on the memory map alone. -/
theorem State.kind_congr {s t : State} (h : t.memMap = s.memMap) (adr : Word) : t.kind adr = s.kind adr := by
  simp [State.kind, h]

@[simp] theorem State.kind_writeByte (s : State) (adr other : Word) (v : Byte) :
    (s.writeByte adr v).kind other = s.kind other := State.kind_congr (by simp) other

@[simp] theorem State.kind_afterRead (s : State) (adr other : Word) : (s.afterRead adr).kind other = s.kind other :=
  State.kind_congr (by simp) other

/-- Where there is memory, a read returns its byte (R44). -/
theorem State.peek_of_present {s : State} {adr : Word} (h : s.kind adr ≠ .absent) : s.peek adr = s.mem.read adr := by
  unfold State.peek
  split <;> simp_all

/-- Where there is no memory, a read returns the next free value (R41, R44). -/
theorem State.peek_of_absent {s : State} {adr : Word} (h : s.kind adr = .absent) :
    s.peek adr = Config.absentByte s.absentReads := by
  unfold State.peek
  split <;> simp_all

/-- Where there is memory, a read changes nothing (R44). -/
theorem State.afterRead_of_present {s : State} {adr : Word} (h : s.kind adr ≠ .absent) : s.afterRead adr = s := by
  simp [State.afterRead_eq, h]

end Sys2Proof.Machine
end

