-- ==== Sys2Proof/Laws/Ops.lean ====
section
/-! SUPPORT. One lemma per shared operation that says once everything it can do. -/

namespace Sys2Proof.Machine

/-! ## 16-bit accesses and the stack -/

/-- `MemRead(adr, 2)`: both bytes, and nothing changed but the free values used up. -/
theorem State.readWord_eq (s : State) (adr : Word) :
    s.readWord adr = ((s.afterRead adr).peek (adr + 1#16) ++ s.peek adr, (s.afterRead adr).afterRead (adr + 1#16)) := rfl

/-- `MemWrite(adr, 2, v)`: only memory changes, and only at the two addresses. -/
theorem State.writeWord_spec (s : State) (adr v : Word) :
    (∀ other, other ≠ adr → other ≠ adr + 1#16 → (s.writeWord adr v).mem.read other = s.mem.read other) ∧
      s.writeWord adr v = { s with mem := (s.writeWord adr v).mem } := by
  constructor
  · intro other h1 h2
    simp [State.writeWord, State.writeByte_read, h1, h2]
  · simp [State.writeWord, State.writeByte_eq]

/-- A push: only memory and SP change, memory only at the two addresses below SP. -/
theorem State.pushBytes_spec (s : State) (x y : Byte) :
    (s.pushBytes x y).sp = s.sp - 2#16 ∧
      (∀ other, other ≠ s.sp - 1#16 → other ≠ s.sp - 2#16 → (s.pushBytes x y).mem.read other = s.mem.read other) ∧
      s.pushBytes x y = { s with sp := s.sp - 2#16, mem := (s.pushBytes x y).mem } := by
  refine ⟨rfl, ?_, ?_⟩
  · intro other h1 h2
    simp [State.pushBytes, State.writeByte_read, h1, h2]
  · simp [State.pushBytes, State.writeByte_eq]

/-- The two addresses of a push differ. -/
theorem sp_sub_ne (w : Word) : w - 1#16 ≠ w - 2#16 := by
  intro h
  have := congrArg BitVec.toNat h
  have := w.isLt
  simp only [BitVec.toNat_sub, BitVec.toNat_ofNat] at *
  omega

/-- The two bytes a push stores, where the stack is in read/write memory. -/
theorem State.pushBytes_read {s : State} (x y : Byte) (h1 : s.kind (s.sp - 1#16) = .rw) (h2 : s.kind (s.sp - 2#16) = .rw) :
    (s.pushBytes x y).mem.read (s.sp - 1#16) = x ∧ (s.pushBytes x y).mem.read (s.sp - 2#16) = y := by
  have hne : s.sp - 1#16 ≠ s.sp - 2#16 := sp_sub_ne s.sp
  constructor
  · simp [State.pushBytes, State.writeByte_read, h1, hne]
  · simp [State.pushBytes, State.writeByte_read, h2]

/-- A push keeps the canonical form of memory. -/
theorem State.pushBytes_wf {s : State} (h : s.mem.wf) (x y : Byte) : (s.pushBytes x y).mem.wf := by
  have := State.writeByte_wf (State.writeByte_wf h (s.sp - 1#16) x) (s.sp - 2#16) y
  simpa [State.pushBytes] using this

/-- A pop: the two bytes at SP and above, SP two more, and nothing else changed but the free values used up. -/
theorem State.pop16_eq (s : State) :
    s.pop16 = ((s.afterRead s.sp).peek (s.sp + 1#16) ++ s.peek s.sp,
      { (s.afterRead s.sp).afterRead (s.sp + 1#16) with sp := s.sp + 2#16 }) := rfl

/-- A pop from memory that is there. -/
theorem State.pop16_of_present {s : State} (h1 : s.kind s.sp ≠ .absent) (h2 : s.kind (s.sp + 1#16) ≠ .absent) :
    s.pop16 = (s.mem.read (s.sp + 1#16) ++ s.mem.read s.sp, { s with sp := s.sp + 2#16 }) := by
  simp [State.pop16_eq, State.afterRead_of_present, State.peek_of_present, h1, h2]

/-- A call: the push of `pc`, then the jump. -/
theorem State.callOp_spec (s : State) (target : Word) :
    s.callOp target = { s with sp := s.sp - 2#16, pc := target, mem := (s.push16 s.pc).mem } := by
  unfold State.callOp State.push16
  rw [(State.pushBytes_spec s _ _).2.2]

/-- A return: the pop into `pc`. -/
theorem State.retOp_spec (s : State) :
    s.retOp = { s with pc := s.pop16.1, sp := s.sp + 2#16, absentReads := s.pop16.2.absentReads } := by
  simp [State.retOp, State.pop16_eq, State.afterRead_eq]

/-! ## Operands -/

/-- Reading an operand changes nothing but the free values used up. -/
theorem State.afterOperand_eq (s : State) (r : R8) :
    s.afterOperand r = { s with absentReads := (s.afterOperand r).absentReads } := by
  cases r <;> simp [State.afterOperand, State.afterRead_eq]

/-- A register operand is the register and nothing changes. -/
theorem State.readR8_register (s : State) (r : R8) (h : r ≠ .m) : (s.readR8 r).2 = s := by
  cases r <;> simp_all [State.readR8, State.afterOperand]

/-- Storing an 8-bit result keeps the canonical form of memory. -/
theorem State.writeR8_wf {s : State} (h : s.mem.wf) (r : R8) (v : Byte) : (s.writeR8 r v).mem.wf := by
  cases r
  case m => exact State.writeByte_wf h s.hl v
  all_goals exact h


/-- A 16-bit value is its high byte and its low byte. -/
theorem word_split (v : Word) : v.extractLsb' 8 8 ++ v.extractLsb' 0 8 = v := by
  apply BitVec.eq_of_getLsbD_eq
  intro i hi
  simp only [BitVec.getLsbD_append, BitVec.getLsbD_extractLsb']
  by_cases h : i < 8
  · simp [h]
  · have : i - 8 < 8 := by omega
    simp [h, this, show 8 + (i - 8) = i by omega]

/-- The bytes of two bytes put together. -/
theorem append_split (x y : Byte) : (x ++ y).extractLsb' 8 8 = x ∧ (x ++ y).extractLsb' 0 8 = y := by
  constructor
  · apply BitVec.eq_of_getLsbD_eq
    intro i hi
    rw [BitVec.getLsbD_extractLsb', BitVec.getLsbD_append]
    simp [hi]
  · apply BitVec.eq_of_getLsbD_eq
    intro i hi
    rw [BitVec.getLsbD_extractLsb', BitVec.getLsbD_append]
    simp [hi]

/-- A pair written reads as what was written (`10_state.md` R12). -/
theorem State.pair_setPair (s : State) (rp : RegPair) (v : Word) : (s.setPair rp v).pair rp = v := by
  cases rp <;> simp only [State.setPair, State.pair, Regs.bc, Regs.de, Regs.hl, word_split]

/-! ## Condition bits -/

/-- The parity bit is set for an even number of 1 bits (`10_state.md` R22). -/
theorem parity_eq_count (v : Byte) : parity v = ((List.range 8).countP (fun i => v.getLsbD i) % 2 == 0) := by
  simp only [parity, List.range, List.range.loop, List.countP, List.countP.go]
  cases v.getLsbD 0 <;> cases v.getLsbD 1 <;> cases v.getLsbD 2 <;> cases v.getLsbD 3 <;> cases v.getLsbD 4 <;>
    cases v.getLsbD 5 <;> cases v.getLsbD 6 <;> cases v.getLsbD 7 <;> rfl

/-- The addition's result byte, exactly (`42_accumulator_alu.md` R131). -/
theorem add8_res (a b : Byte) (c : Bool) : (add8 a b c).res.toNat = (a.toNat + b.toNat + c.toNat) % 256 := by
  cases c <;> simp [add8, BitVec.toNat_add]

/-- The addition's carry out of bit 7, exactly. -/
theorem add8_cy (a b : Byte) (c : Bool) : (add8 a b c).cy = decide (a.toNat + b.toNat + c.toNat > 255) := by
  have ha := a.isLt
  have hb := b.isLt
  have h9 : ∀ t : BitVec 9, t.getLsbD 8 = decide (t.toNat > 255) := by decide
  simp only [add8, h9]
  cases c <;> simp [BitVec.toNat_add] <;> omega

/-- The addition's carry out of bit 3, exactly. -/
theorem carry3_eq (a b : Byte) (c : Bool) : carry3 a b c = decide (a.toNat % 16 + b.toNat % 16 + c.toNat > 15) := by
  simp [carry3]

/-- A subtraction is the addition of the complement, its carry complemented (`42_accumulator_alu.md` R132). -/
theorem sub8_eq_add8 (a v : Byte) (b : Bool) :
    sub8 a v b = { add8 a (~~~v) (!b) with cy := !(add8 a (~~~v) (!b)).cy } := rfl

/-- The condition-bit byte gives its five bits back (`10_state.md` R27). -/
theorem Flags.ofByte_toByte (f : Flags) : Flags.ofByte f.toByte = f := by
  obtain ⟨cy, ac, s, z, p⟩ := f
  cases cy <;> cases ac <;> cases s <;> cases z <;> cases p <;> rfl

end Sys2Proof.Machine
end

