-- ==== Sys2Proof/Laws/PerInstr.lean ====
section
/-! SUPPORT. Statements made per instruction: `EncodingLength`, that the encoding of a well-formed instruction has the number of
bytes its first byte alone fixes (`30_encoding.md` R71). -/

namespace Sys2Proof.Laws.EncodingLength

/-- A well-formed instruction is encoded in as many bytes as its first byte says (`30_encoding.md` R71). -/
def Statement (i : Instr) : Prop :=
  i.wellFormed = true → ∃ op rest, encode i = op :: rest ∧ rest.length + 1 = instrLength op

theorem stc : Statement .stc := fun _ => ⟨_, _, rfl, rfl⟩
theorem cmc : Statement .cmc := fun _ => ⟨_, _, rfl, rfl⟩
theorem inr (r : R8) : Statement (.inr r) := by
  intro _
  cases r <;> exact ⟨_, _, rfl, rfl⟩
theorem dcr (r : R8) : Statement (.dcr r) := by
  intro _
  cases r <;> exact ⟨_, _, rfl, rfl⟩
theorem cma : Statement .cma := fun _ => ⟨_, _, rfl, rfl⟩
theorem daa : Statement .daa := fun _ => ⟨_, _, rfl, rfl⟩
theorem nop : Statement .nop := fun _ => ⟨_, _, rfl, rfl⟩
theorem mov (dst src : R8) : Statement (.mov dst src) := by
  intro h
  cases dst <;> cases src <;> first | exact ⟨_, _, rfl, by decide⟩ | exact absurd h (by decide)
theorem stax (rp : BDPair) : Statement (.stax rp) := by
  intro _
  cases rp <;> exact ⟨_, _, rfl, rfl⟩
theorem ldax (rp : BDPair) : Statement (.ldax rp) := by
  intro _
  cases rp <;> exact ⟨_, _, rfl, rfl⟩
theorem add (r : R8) : Statement (.add r) := by
  intro _
  cases r <;> exact ⟨_, _, rfl, rfl⟩
theorem adc (r : R8) : Statement (.adc r) := by
  intro _
  cases r <;> exact ⟨_, _, rfl, rfl⟩
theorem sub (r : R8) : Statement (.sub r) := by
  intro _
  cases r <;> exact ⟨_, _, rfl, rfl⟩
theorem sbb (r : R8) : Statement (.sbb r) := by
  intro _
  cases r <;> exact ⟨_, _, rfl, rfl⟩
theorem ana (r : R8) : Statement (.ana r) := by
  intro _
  cases r <;> exact ⟨_, _, rfl, rfl⟩
theorem xra (r : R8) : Statement (.xra r) := by
  intro _
  cases r <;> exact ⟨_, _, rfl, rfl⟩
theorem ora (r : R8) : Statement (.ora r) := by
  intro _
  cases r <;> exact ⟨_, _, rfl, rfl⟩
theorem cmp (r : R8) : Statement (.cmp r) := by
  intro _
  cases r <;> exact ⟨_, _, rfl, rfl⟩
theorem rlc : Statement .rlc := fun _ => ⟨_, _, rfl, rfl⟩
theorem rrc : Statement .rrc := fun _ => ⟨_, _, rfl, rfl⟩
theorem ral : Statement .ral := fun _ => ⟨_, _, rfl, rfl⟩
theorem rar : Statement .rar := fun _ => ⟨_, _, rfl, rfl⟩
theorem push (rp : StackPair) : Statement (.push rp) := by
  intro _
  cases rp <;> exact ⟨_, _, rfl, rfl⟩
theorem pop (rp : StackPair) : Statement (.pop rp) := by
  intro _
  cases rp <;> exact ⟨_, _, rfl, rfl⟩
theorem dad (rp : RegPair) : Statement (.dad rp) := by
  intro _
  cases rp <;> exact ⟨_, _, rfl, rfl⟩
theorem inx (rp : RegPair) : Statement (.inx rp) := by
  intro _
  cases rp <;> exact ⟨_, _, rfl, rfl⟩
theorem dcx (rp : RegPair) : Statement (.dcx rp) := by
  intro _
  cases rp <;> exact ⟨_, _, rfl, rfl⟩
theorem xchg : Statement .xchg := fun _ => ⟨_, _, rfl, rfl⟩
theorem xthl : Statement .xthl := fun _ => ⟨_, _, rfl, rfl⟩
theorem sphl : Statement .sphl := fun _ => ⟨_, _, rfl, rfl⟩
theorem lxi (rp : RegPair) (data : Word) : Statement (.lxi rp data) := by
  intro _
  cases rp <;> exact ⟨_, _, rfl, rfl⟩
theorem mvi (r : R8) (data : Byte) : Statement (.mvi r data) := by
  intro _
  cases r <;> exact ⟨_, _, rfl, rfl⟩
theorem adi (data : Byte) : Statement (.adi data) := fun _ => ⟨_, _, rfl, rfl⟩
theorem aci (data : Byte) : Statement (.aci data) := fun _ => ⟨_, _, rfl, rfl⟩
theorem sui (data : Byte) : Statement (.sui data) := fun _ => ⟨_, _, rfl, rfl⟩
theorem sbi (data : Byte) : Statement (.sbi data) := fun _ => ⟨_, _, rfl, rfl⟩
theorem ani (data : Byte) : Statement (.ani data) := fun _ => ⟨_, _, rfl, rfl⟩
theorem xri (data : Byte) : Statement (.xri data) := fun _ => ⟨_, _, rfl, rfl⟩
theorem ori (data : Byte) : Statement (.ori data) := fun _ => ⟨_, _, rfl, rfl⟩
theorem cpi (data : Byte) : Statement (.cpi data) := fun _ => ⟨_, _, rfl, rfl⟩
theorem sta (adr : Word) : Statement (.sta adr) := fun _ => ⟨_, _, rfl, rfl⟩
theorem lda (adr : Word) : Statement (.lda adr) := fun _ => ⟨_, _, rfl, rfl⟩
theorem shld (adr : Word) : Statement (.shld adr) := fun _ => ⟨_, _, rfl, rfl⟩
theorem lhld (adr : Word) : Statement (.lhld adr) := fun _ => ⟨_, _, rfl, rfl⟩
theorem pchl : Statement .pchl := fun _ => ⟨_, _, rfl, rfl⟩
theorem jmp (adr : Word) : Statement (.jmp adr) := fun _ => ⟨_, _, rfl, rfl⟩
theorem jc (adr : Word) : Statement (.jc adr) := fun _ => ⟨_, _, rfl, rfl⟩
theorem jnc (adr : Word) : Statement (.jnc adr) := fun _ => ⟨_, _, rfl, rfl⟩
theorem jz (adr : Word) : Statement (.jz adr) := fun _ => ⟨_, _, rfl, rfl⟩
theorem jnz (adr : Word) : Statement (.jnz adr) := fun _ => ⟨_, _, rfl, rfl⟩
theorem jm (adr : Word) : Statement (.jm adr) := fun _ => ⟨_, _, rfl, rfl⟩
theorem jp (adr : Word) : Statement (.jp adr) := fun _ => ⟨_, _, rfl, rfl⟩
theorem jpe (adr : Word) : Statement (.jpe adr) := fun _ => ⟨_, _, rfl, rfl⟩
theorem jpo (adr : Word) : Statement (.jpo adr) := fun _ => ⟨_, _, rfl, rfl⟩
theorem call (adr : Word) : Statement (.call adr) := fun _ => ⟨_, _, rfl, rfl⟩
theorem cc (adr : Word) : Statement (.cc adr) := fun _ => ⟨_, _, rfl, rfl⟩
theorem cnc (adr : Word) : Statement (.cnc adr) := fun _ => ⟨_, _, rfl, rfl⟩
theorem cz (adr : Word) : Statement (.cz adr) := fun _ => ⟨_, _, rfl, rfl⟩
theorem cnz (adr : Word) : Statement (.cnz adr) := fun _ => ⟨_, _, rfl, rfl⟩
theorem cm (adr : Word) : Statement (.cm adr) := fun _ => ⟨_, _, rfl, rfl⟩
theorem cp (adr : Word) : Statement (.cp adr) := fun _ => ⟨_, _, rfl, rfl⟩
theorem cpe (adr : Word) : Statement (.cpe adr) := fun _ => ⟨_, _, rfl, rfl⟩
theorem cpo (adr : Word) : Statement (.cpo adr) := fun _ => ⟨_, _, rfl, rfl⟩
theorem ret : Statement .ret := fun _ => ⟨_, _, rfl, rfl⟩
theorem rc : Statement .rc := fun _ => ⟨_, _, rfl, rfl⟩
theorem rnc : Statement .rnc := fun _ => ⟨_, _, rfl, rfl⟩
theorem rz : Statement .rz := fun _ => ⟨_, _, rfl, rfl⟩
theorem rnz : Statement .rnz := fun _ => ⟨_, _, rfl, rfl⟩
theorem rm : Statement .rm := fun _ => ⟨_, _, rfl, rfl⟩
theorem rp : Statement .rp := fun _ => ⟨_, _, rfl, rfl⟩
theorem rpe : Statement .rpe := fun _ => ⟨_, _, rfl, rfl⟩
theorem rpo : Statement .rpo := fun _ => ⟨_, _, rfl, rfl⟩
theorem rst (exp : BitVec 3) : Statement (.rst exp) := by
  intro _
  refine ⟨_, _, rfl, ?_⟩
  revert exp
  decide
theorem ei : Statement .ei := fun _ => ⟨_, _, rfl, rfl⟩
theorem di : Statement .di := fun _ => ⟨_, _, rfl, rfl⟩
theorem inp (dev : Byte) : Statement (.inp dev) := fun _ => ⟨_, _, rfl, rfl⟩
theorem out (dev : Byte) : Statement (.out dev) := fun _ => ⟨_, _, rfl, rfl⟩
theorem hlt : Statement .hlt := fun _ => ⟨_, _, rfl, rfl⟩
theorem unassigned08 : Statement .unassigned08 := fun _ => ⟨_, _, rfl, rfl⟩
theorem unassigned10 : Statement .unassigned10 := fun _ => ⟨_, _, rfl, rfl⟩
theorem unassigned18 : Statement .unassigned18 := fun _ => ⟨_, _, rfl, rfl⟩
theorem unassigned20 : Statement .unassigned20 := fun _ => ⟨_, _, rfl, rfl⟩
theorem unassigned28 : Statement .unassigned28 := fun _ => ⟨_, _, rfl, rfl⟩
theorem unassigned30 : Statement .unassigned30 := fun _ => ⟨_, _, rfl, rfl⟩
theorem unassigned38 : Statement .unassigned38 := fun _ => ⟨_, _, rfl, rfl⟩
theorem unassignedCB : Statement .unassignedCB := fun _ => ⟨_, _, rfl, rfl⟩
theorem unassignedD9 : Statement .unassignedD9 := fun _ => ⟨_, _, rfl, rfl⟩
theorem unassignedDD : Statement .unassignedDD := fun _ => ⟨_, _, rfl, rfl⟩
theorem unassignedED : Statement .unassignedED := fun _ => ⟨_, _, rfl, rfl⟩
theorem unassignedFD : Statement .unassignedFD := fun _ => ⟨_, _, rfl, rfl⟩

end Sys2Proof.Laws.EncodingLength
end

