-- ==== Sys2Proof/Laws/Step.lean ====
section
/-! SUPPORT. The fetch and the step, each said once: what a fetch leaves, and the ways a step answers a next state. -/

namespace Sys2Proof.Machine

/-- An instruction has one, two or three bytes (`30_encoding.md` R70). -/
theorem instrLength_cases (op : Byte) : instrLength op = 1 ∨ instrLength op = 2 ∨ instrLength op = 3 := by
  revert op
  decide

/-- A fetch changes `pc` and the count of free values used up, and nothing else. -/
theorem fetch_state (s : State) :
    (fetch s).2 = { s with pc := s.pc + BitVec.ofNat 16 (instrLength (s.peek s.pc)), absentReads := (fetch s).2.absentReads } := by
  rcases instrLength_cases (s.peek s.pc) with h | h | h <;>
    simp [fetch, State.readByte, h, State.afterRead_eq]

/-- A fetch of bytes that are there: the decoded instruction, and `pc` after it. -/
theorem fetch_of_present {s : State} (h : ∀ adr ∈ s.fetchedBytes, s.kind adr ≠ .absent) :
    fetch s =
      (decodeBytes (s.mem.read s.pc)
          (if 2 ≤ instrLength (s.mem.read s.pc) then s.mem.read (s.pc + 1#16) else 0#8)
          (if 3 ≤ instrLength (s.mem.read s.pc) then s.mem.read (s.pc + 2#16) else 0#8),
        { s with pc := s.pc + BitVec.ofNat 16 (instrLength (s.mem.read s.pc)) }) := by
  have h0 : s.kind s.pc ≠ .absent := h _ (by
    rcases instrLength_cases (s.peek s.pc) with e | e | e <;> simp [State.fetchedBytes, e])
  have e0 := State.peek_of_present h0
  rcases instrLength_cases (s.peek s.pc) with e | e | e
  · rw [e0] at e
    simp [fetch, State.readByte, e0, e, State.afterRead_of_present h0]
  · have h1 : s.kind (s.pc + 1#16) ≠ .absent := h _ (by simp [State.fetchedBytes, e])
    rw [e0] at e
    simp [fetch, State.readByte, e0, e, State.afterRead_of_present h0, State.afterRead_of_present h1,
      State.peek_of_present h1]
  · have h1 : s.kind (s.pc + 1#16) ≠ .absent := h _ (by simp [State.fetchedBytes, e])
    have h2 : s.kind (s.pc + 2#16) ≠ .absent := h _ (by simp [State.fetchedBytes, e])
    rw [e0] at e
    simp [fetch, State.readByte, e0, e, State.afterRead_of_present h0, State.afterRead_of_present h1,
      State.afterRead_of_present h2, State.peek_of_present h1, State.peek_of_present h2]

/-- The ways a step answers a next state: an acceptance, an instruction of the program, or a wait. -/
theorem step_next {s t : State} (h : step s = .next t) :
    (∃ op, s.irqNow = some op ∧ s.inte = true ∧ admitted op = true ∧
        exec (decodeBytes op 0#8 0#8) s.nextBoundary.accept = .next t) ∨
    ((s.irqNow = none ∨ s.inte = false) ∧ s.run = .running ∧ fetchAndExecute s.nextBoundary = .next t) ∨
    (s.irqNow = none ∧ s.inte = true ∧ s.run = .stopped ∧ t = s.nextBoundary) := by
  unfold step atBoundary at h
  split at h
  · rename_i op hi hn
    unfold acceptRequest at h
    split at h
    · rename_i ha
      exact .inl ⟨op, hi, hn, ha, h⟩
    · cases h
  · rename_i hr hx
    refine .inr (.inl ⟨?_, hr, h⟩)
    cases hi : s.irqNow with
    | none => exact .inl rfl
    | some op =>
      cases hn : s.inte with
      | false => exact .inr rfl
      | true => exact (hx op hi hn).elim
  · rename_i hi hn hr
    cases h
    exact .inr (.inr ⟨hi, hn, hr, rfl⟩)
  · cases h

/-- A step of a RUNNING machine with no request it can accept. -/
theorem step_running {s : State} (hr : s.run = .running) (hi : s.irqNow = none ∨ s.inte = false) :
    step s = fetchAndExecute s.nextBoundary := by
  unfold step atBoundary
  rcases hi with hi | hi
  · simp [hi, hr]
  · cases h : s.irqNow <;> simp [hi, hr]

end Sys2Proof.Machine
end

