-- ==== Sys2Proof/Tests/Slice0.lean ====
section
/-! SUPPORT. The model's own tests: ill-formed terms refused, decoding of words written out from the spec's encodings, one-step
vectors of `95_test_vectors.md` (source values and vectors derived from the rules), the assembler's examples, and a witness for
the hypotheses of every
statement that has some. -/

namespace Sys2Proof.Tests

open Sys2Proof.Machine

/-! ## Well-formedness (`41_data_transfer.md` R120) -/

theorem test_wellformed_refuses_mov_m_m : (Instr.mov .m .m).wellFormed = false := by decide
theorem test_wellformed_admits_mov_m_a : (Instr.mov .m .a).wellFormed = true := by decide
theorem test_unassigned_is_not_assigned : Instr.unassigned08.assigned = false := by decide

/-! ## Decoding (`30_encoding.md` R88): every constructor, from its pattern written out bit by bit -/

theorem test_decode_carry_single :
    decodeTableWord 8 0b00110111 = some .stc ∧
    decodeTableWord 8 0b00111111 = some .cmc ∧
    decodeTableWord 8 0b00001100 = some (.inr .c) ∧
    decodeTableWord 8 0b00110101 = some (.dcr .m) ∧
    decodeTableWord 8 0b00101111 = some .cma ∧
    decodeTableWord 8 0b00100111 = some .daa ∧
    decodeTableWord 8 0b00000000 = some .nop := by
  decide

theorem test_decode_transfer :
    decodeTableWord 8 0b01111011 = some (.mov .a .e) ∧
    decodeTableWord 8 0b01110111 = some (.mov .m .a) ∧
    decodeTableWord 8 0b00010010 = some (.stax .d) ∧
    decodeTableWord 8 0b00001010 = some (.ldax .b) := by
  decide

theorem test_decode_accumulator :
    decodeTableWord 8 0b10000010 = some (.add .d) ∧
    decodeTableWord 8 0b10001001 = some (.adc .c) ∧
    decodeTableWord 8 0b10010111 = some (.sub .a) ∧
    decodeTableWord 8 0b10011101 = some (.sbb .l) ∧
    decodeTableWord 8 0b10100001 = some (.ana .c) ∧
    decodeTableWord 8 0b10101000 = some (.xra .b) ∧
    decodeTableWord 8 0b10110100 = some (.ora .h) ∧
    decodeTableWord 8 0b10111110 = some (.cmp .m) := by
  decide

theorem test_decode_rotate :
    decodeTableWord 8 0b00000111 = some .rlc ∧
    decodeTableWord 8 0b00001111 = some .rrc ∧
    decodeTableWord 8 0b00010111 = some .ral ∧
    decodeTableWord 8 0b00011111 = some .rar := by
  decide

theorem test_decode_register_pair :
    decodeTableWord 8 0b11110101 = some (.push .psw) ∧
    decodeTableWord 8 0b11100001 = some (.pop .h) ∧
    decodeTableWord 8 0b00111001 = some (.dad .sp) ∧
    decodeTableWord 8 0b00010011 = some (.inx .d) ∧
    decodeTableWord 8 0b00001011 = some (.dcx .b) ∧
    decodeTableWord 8 0b11101011 = some .xchg ∧
    decodeTableWord 8 0b11100011 = some .xthl ∧
    decodeTableWord 8 0b11111001 = some .sphl := by
  decide

theorem test_decode_immediate :
    decodeTableWord 24 0x3ABC31 = some (.lxi .sp 0x3ABC#16) ∧
    decodeTableWord 16 0x3C26 = some (.mvi .h 0x3C#8) ∧
    decodeTableWord 16 0x42C6 = some (.adi 0x42#8) ∧
    decodeTableWord 16 0xBECE = some (.aci 0xBE#8) ∧
    decodeTableWord 16 0x01D6 = some (.sui 0x01#8) ∧
    decodeTableWord 16 0x01DE = some (.sbi 0x01#8) ∧
    decodeTableWord 16 0x0FE6 = some (.ani 0x0F#8) ∧
    decodeTableWord 16 0x81EE = some (.xri 0x81#8) ∧
    decodeTableWord 16 0x0FF6 = some (.ori 0x0F#8) ∧
    decodeTableWord 16 0x40FE = some (.cpi 0x40#8) := by
  decide

theorem test_decode_direct :
    decodeTableWord 24 0x05B332 = some (.sta 0x05B3#16) ∧
    decodeTableWord 24 0x03003A = some (.lda 0x0300#16) ∧
    decodeTableWord 24 0x010A22 = some (.shld 0x010A#16) ∧
    decodeTableWord 24 0x025B2A = some (.lhld 0x025B#16) := by
  decide

theorem test_decode_jump :
    decodeTableWord 8 0b11101001 = some .pchl ∧
    decodeTableWord 24 0x3E00C3 = some (.jmp 0x3E00#16) ∧
    decodeTableWord 24 0x1234DA = some (.jc 0x1234#16) ∧
    decodeTableWord 24 0x1234D2 = some (.jnc 0x1234#16) ∧
    decodeTableWord 24 0x1234CA = some (.jz 0x1234#16) ∧
    decodeTableWord 24 0x1234C2 = some (.jnz 0x1234#16) ∧
    decodeTableWord 24 0x1234FA = some (.jm 0x1234#16) ∧
    decodeTableWord 24 0x1234F2 = some (.jp 0x1234#16) ∧
    decodeTableWord 24 0x1234EA = some (.jpe 0x1234#16) ∧
    decodeTableWord 24 0x1234E2 = some (.jpo 0x1234#16) := by
  decide

theorem test_decode_call :
    decodeTableWord 24 0x3C00CD = some (.call 0x3C00#16) ∧
    decodeTableWord 24 0x3C00DC = some (.cc 0x3C00#16) ∧
    decodeTableWord 24 0x3C00D4 = some (.cnc 0x3C00#16) ∧
    decodeTableWord 24 0x3C00CC = some (.cz 0x3C00#16) ∧
    decodeTableWord 24 0x3C00C4 = some (.cnz 0x3C00#16) ∧
    decodeTableWord 24 0x3C00FC = some (.cm 0x3C00#16) ∧
    decodeTableWord 24 0x3C00F4 = some (.cp 0x3C00#16) ∧
    decodeTableWord 24 0x3C00EC = some (.cpe 0x3C00#16) ∧
    decodeTableWord 24 0x3C00E4 = some (.cpo 0x3C00#16) := by
  decide

theorem test_decode_return_rst :
    decodeTableWord 8 0b11001001 = some .ret ∧
    decodeTableWord 8 0b11011000 = some .rc ∧
    decodeTableWord 8 0b11010000 = some .rnc ∧
    decodeTableWord 8 0b11001000 = some .rz ∧
    decodeTableWord 8 0b11000000 = some .rnz ∧
    decodeTableWord 8 0b11111000 = some .rm ∧
    decodeTableWord 8 0b11110000 = some .rp ∧
    decodeTableWord 8 0b11101000 = some .rpe ∧
    decodeTableWord 8 0b11100000 = some .rpo ∧
    decodeTableWord 8 0b11011111 = some (.rst 3#3) := by
  decide

theorem test_decode_io :
    decodeTableWord 8 0b11111011 = some .ei ∧
    decodeTableWord 8 0b11110011 = some .di ∧
    decodeTableWord 16 0x05DB = some (.inp 0x05#8) ∧
    decodeTableWord 16 0x1FD3 = some (.out 0x1F#8) ∧
    decodeTableWord 8 0b01110110 = some .hlt := by
  decide

theorem test_decode_unassigned :
    decodeTableWord 8 0x08 = some .unassigned08 ∧
    decodeTableWord 8 0x10 = some .unassigned10 ∧
    decodeTableWord 8 0x18 = some .unassigned18 ∧
    decodeTableWord 8 0x20 = some .unassigned20 ∧
    decodeTableWord 8 0x28 = some .unassigned28 ∧
    decodeTableWord 8 0x30 = some .unassigned30 ∧
    decodeTableWord 8 0x38 = some .unassigned38 ∧
    decodeTableWord 8 0xCB = some .unassignedCB ∧
    decodeTableWord 8 0xD9 = some .unassignedD9 ∧
    decodeTableWord 8 0xDD = some .unassignedDD ∧
    decodeTableWord 8 0xED = some .unassignedED ∧
    decodeTableWord 8 0xFD = some .unassignedFD := by
  decide

/-! ## One step from a vector of `95_test_vectors.md` -/

/-- The bytes stand at `pc`; the predicate holds of the state one step later. -/
def stepFrom (pc : Word) (bytes : List Byte) (s : State) (p : State → Bool) : Bool :=
  match step { s with pc := pc, mem := s.mem.load pc bytes } with
  | .next t => p t
  | _ => false

/-- The predicate holds of the state after a boundary at which a device supplies the instruction. -/
def acceptFrom (op : Byte) (s : State) (p : State → Bool) : Bool :=
  match step { s with irq := [some op] } with
  | .next t => p t
  | _ => false

/-- STC from 0 (R100). -/
theorem test_stc_1 :
    stepFrom 0x0100#16 [0x37#8] { State.reset with flags := { Flags.reset with cy := false } }
      (fun t => t.flags.cy == true && t.pc == 0x0101#16) = true := by
  decide

/-- STC from 1 (R100). -/
theorem test_stc_2 :
    stepFrom 0x0100#16 [0x37#8] { State.reset with flags := { Flags.reset with cy := true } }
      (fun t => t.flags.cy == true && t.pc == 0x0101#16) = true := by
  decide

/-- CMC from 0 (R101). -/
theorem test_cmc_1 :
    stepFrom 0x0100#16 [0x3F#8] { State.reset with flags := { Flags.reset with cy := false } }
      (fun t => t.flags.cy == true && t.pc == 0x0101#16) = true := by
  decide

/-- CMC from 1 (R101). -/
theorem test_cmc_2 :
    stepFrom 0x0100#16 [0x3F#8] { State.reset with flags := { Flags.reset with cy := true } }
      (fun t => t.flags.cy == false && t.pc == 0x0101#16) = true := by
  decide

/-- INR A FFH, CY=1 kept (R102). -/
theorem test_inr_1 :
    stepFrom 0x0100#16 [0x3C#8] { State.reset with regs := { Regs.reset with a := 0xFF#8 }, flags := { Flags.reset with cy := true, ac := false, s := false, z := false, p := false } }
      (fun t => t.regs.a == 0x00#8 && t.pc == 0x0101#16 && t.flags == ⟨true, true, false, true, true⟩) = true := by
  decide

/-- INR M (R102). -/
theorem test_inr_2 :
    stepFrom 0x0100#16 [0x34#8] { State.reset with regs := { Regs.reset with h := 0x50#8, l := 0x00#8 }, flags := { Flags.reset with cy := false, ac := false, s := false, z := false, p := false }, mem := [(0x5000, 0xFF#8)] }
      (fun t => t.mem.read 0x5000#16 == 0x00#8 && t.pc == 0x0101#16 && t.flags == ⟨false, true, false, true, true⟩) = true := by
  decide

/-- DCR M 40H (source) (R103). -/
theorem test_dcr_1 :
    stepFrom 0x0100#16 [0x35#8] { State.reset with regs := { Regs.reset with h := 0x3A#8, l := 0x7C#8 }, flags := { Flags.reset with cy := false, ac := false, s := false, z := false, p := false }, mem := [(0x3A7C, 0x40#8)] }
      (fun t => t.mem.read 0x3A7C#16 == 0x3F#8 && t.pc == 0x0101#16 && t.flags == ⟨false, false, false, false, true⟩) = true := by
  decide

/-- DCR B 00H wraps, CY kept (R103). -/
theorem test_dcr_2 :
    stepFrom 0x0100#16 [0x05#8] { State.reset with regs := { Regs.reset with b := 0x00#8 }, flags := { Flags.reset with cy := true, ac := false, s := false, z := false, p := false } }
      (fun t => t.regs.b == 0xFF#8 && t.pc == 0x0101#16 && t.flags == ⟨true, false, true, false, true⟩) = true := by
  decide

/-- CMA 51H (source) (R104). -/
theorem test_cma_1 :
    stepFrom 0x0100#16 [0x2F#8] { State.reset with regs := { Regs.reset with a := 0x51#8 }, flags := { Flags.reset with cy := false, ac := false, s := false, z := false, p := false } }
      (fun t => t.regs.a == 0xAE#8 && t.pc == 0x0101#16 && t.flags == ⟨false, false, false, false, false⟩) = true := by
  decide

/-- CMA FFH, Z not written (R104). -/
theorem test_cma_2 :
    stepFrom 0x0100#16 [0x2F#8] { State.reset with regs := { Regs.reset with a := 0xFF#8 }, flags := { Flags.reset with cy := false, ac := false, s := false, z := false, p := false } }
      (fun t => t.regs.a == 0x00#8 && t.pc == 0x0101#16 && t.flags == ⟨false, false, false, false, false⟩) = true := by
  decide

/-- DAA FAH, step-1 carry (D15) (R105). -/
theorem test_daa_1 :
    stepFrom 0x0100#16 [0x27#8] { State.reset with regs := { Regs.reset with a := 0xFA#8 }, flags := { Flags.reset with cy := false, ac := false, s := false, z := false, p := false } }
      (fun t => t.regs.a == 0x60#8 && t.pc == 0x0101#16 && t.flags == ⟨true, true, false, false, true⟩) = true := by
  decide

/-- DAA 9BH (source) (R105). -/
theorem test_daa_2 :
    stepFrom 0x0100#16 [0x27#8] { State.reset with regs := { Regs.reset with a := 0x9B#8 }, flags := { Flags.reset with cy := false, ac := false, s := false, z := false, p := false } }
      (fun t => t.regs.a == 0x01#8 && t.pc == 0x0101#16 && t.flags == ⟨true, true, false, false, false⟩) = true := by
  decide

/-- NOP (R106). -/
theorem test_nop_1 :
    stepFrom 0x0100#16 [0x00#8] { State.reset with regs := { Regs.reset with a := 0x12#8 }, flags := { Flags.reset with cy := true, ac := true, s := true, z := true, p := true } }
      (fun t => t.pc == 0x0101#16 && t.flags == ⟨true, true, true, true, true⟩) = true := by
  decide

/-- MOV H,M uses old H:L (R120). -/
theorem test_mov_1 :
    stepFrom 0x0100#16 [0x66#8] { State.reset with regs := { Regs.reset with h := 0x20#8, l := 0x00#8 }, mem := [(0x2000, 0x31#8)] }
      (fun t => t.regs.h == 0x31#8 && t.pc == 0x0101#16) = true := by
  decide

/-- MOV M,A (source) (R120). -/
theorem test_mov_2 :
    stepFrom 0x0100#16 [0x77#8] { State.reset with regs := { Regs.reset with a := 0xC4#8, h := 0x2B#8, l := 0xE9#8 }, mem := [(0x2BE9, 0x00#8)] }
      (fun t => t.mem.read 0x2BE9#16 == 0xC4#8 && t.pc == 0x0101#16) = true := by
  decide

/-- STAX B (source) (R121). -/
theorem test_stax_1 :
    stepFrom 0x0100#16 [0x02#8] { State.reset with regs := { Regs.reset with a := 0x5D#8, b := 0x3F#8, c := 0x16#8 }, mem := [(0x3F16, 0x00#8)] }
      (fun t => t.mem.read 0x3F16#16 == 0x5D#8 && t.pc == 0x0101#16) = true := by
  decide

/-- STAX D (R121). -/
theorem test_stax_2 :
    stepFrom 0x0100#16 [0x12#8] { State.reset with regs := { Regs.reset with a := 0x01#8, d := 0xFF#8, e := 0xFF#8 }, mem := [(0xFFFF, 0x00#8)] }
      (fun t => t.mem.read 0xFFFF#16 == 0x01#8 && t.pc == 0x0101#16) = true := by
  decide

/-- LDAX D (source) (R122). -/
theorem test_ldax_1 :
    stepFrom 0x0100#16 [0x1A#8] { State.reset with regs := { Regs.reset with a := 0x00#8, d := 0x93#8, e := 0x8B#8 }, mem := [(0x938B, 0xE7#8)] }
      (fun t => t.regs.a == 0xE7#8 && t.pc == 0x0101#16) = true := by
  decide

/-- LDAX B (R122). -/
theorem test_ldax_2 :
    stepFrom 0x0100#16 [0x0A#8] { State.reset with regs := { Regs.reset with a := 0xFF#8, b := 0x00#8, c := 0x00#8 }, mem := [(0x0000, 0x3E#8)] }
      (fun t => t.regs.a == 0x3E#8 && t.pc == 0x0101#16) = true := by
  decide

/-- ADD D (source ex. 1) (R133). -/
theorem test_add_1 :
    stepFrom 0x0100#16 [0x82#8] { State.reset with regs := { Regs.reset with a := 0x6C#8, d := 0x2E#8 }, flags := { Flags.reset with cy := false, ac := false, s := false, z := false, p := false } }
      (fun t => t.regs.a == 0x9A#8 && t.pc == 0x0101#16 && t.flags == ⟨false, true, true, false, true⟩) = true := by
  decide

/-- ADD M (R133). -/
theorem test_add_2 :
    stepFrom 0x0100#16 [0x86#8] { State.reset with regs := { Regs.reset with a := 0x7F#8, h := 0x40#8, l := 0x00#8 }, flags := { Flags.reset with cy := false, ac := false, s := false, z := false, p := false }, mem := [(0x4000, 0x01#8)] }
      (fun t => t.regs.a == 0x80#8 && t.pc == 0x0101#16 && t.flags == ⟨false, true, true, false, false⟩) = true := by
  decide

/-- ADC C CY=0 (source) (R134). -/
theorem test_adc_1 :
    stepFrom 0x0100#16 [0x89#8] { State.reset with regs := { Regs.reset with a := 0x42#8, c := 0x3D#8 }, flags := { Flags.reset with cy := false, ac := false, s := false, z := false, p := false } }
      (fun t => t.regs.a == 0x7F#8 && t.pc == 0x0101#16 && t.flags == ⟨false, false, false, false, false⟩) = true := by
  decide

/-- ADC C CY=1 (source) (R134). -/
theorem test_adc_2 :
    stepFrom 0x0100#16 [0x89#8] { State.reset with regs := { Regs.reset with a := 0x42#8, c := 0x3D#8 }, flags := { Flags.reset with cy := true, ac := false, s := false, z := false, p := false } }
      (fun t => t.regs.a == 0x80#8 && t.pc == 0x0101#16 && t.flags == ⟨false, true, true, false, false⟩) = true := by
  decide

/-- SUB A 3EH (source) (R135). -/
theorem test_sub_1 :
    stepFrom 0x0100#16 [0x97#8] { State.reset with regs := { Regs.reset with a := 0x3E#8 }, flags := { Flags.reset with cy := true, ac := false, s := true, z := false, p := false } }
      (fun t => t.regs.a == 0x00#8 && t.pc == 0x0101#16 && t.flags == ⟨false, true, false, true, true⟩) = true := by
  decide

/-- SUB B 0CH-0FH (3.2.1) (R135). -/
theorem test_sub_2 :
    stepFrom 0x0100#16 [0x90#8] { State.reset with regs := { Regs.reset with a := 0x0C#8, b := 0x0F#8 }, flags := { Flags.reset with cy := false, ac := false, s := false, z := false, p := false } }
      (fun t => t.regs.a == 0xFD#8 && t.pc == 0x0101#16 && t.flags == ⟨true, false, true, false, false⟩) = true := by
  decide

/-- SBB L (source) (R136). -/
theorem test_sbb_1 :
    stepFrom 0x0100#16 [0x9D#8] { State.reset with regs := { Regs.reset with a := 0x04#8, l := 0x02#8 }, flags := { Flags.reset with cy := true, ac := false, s := true, z := true, p := true } }
      (fun t => t.regs.a == 0x01#8 && t.pc == 0x0101#16 && t.flags == ⟨false, true, false, false, false⟩) = true := by
  decide

/-- SBB B FFH with CY=1 (C24) (R136). -/
theorem test_sbb_2 :
    stepFrom 0x0100#16 [0x98#8] { State.reset with regs := { Regs.reset with a := 0x37#8, b := 0xFF#8 }, flags := { Flags.reset with cy := true, ac := false, s := false, z := false, p := false } }
      (fun t => t.pc == 0x0101#16 && t.flags == ⟨true, false, false, false, false⟩) = true := by
  decide

/-- ANA C (source) (R138). -/
theorem test_ana_1 :
    stepFrom 0x0100#16 [0xA1#8] { State.reset with regs := { Regs.reset with a := 0xFC#8, c := 0x0F#8 }, flags := { Flags.reset with cy := true, ac := true, s := true, z := true, p := true } }
      (fun t => t.regs.a == 0x0C#8 && t.pc == 0x0101#16 && t.flags == ⟨false, true, false, false, true⟩) = true := by
  decide

/-- ANA A tests A (R138). -/
theorem test_ana_2 :
    stepFrom 0x0100#16 [0xA7#8] { State.reset with regs := { Regs.reset with a := 0x00#8 }, flags := { Flags.reset with cy := true, ac := true, s := false, z := false, p := false } }
      (fun t => t.pc == 0x0101#16 && t.flags == ⟨false, true, false, true, true⟩) = true := by
  decide

/-- XRA A zeroes (R139). -/
theorem test_xra_1 :
    stepFrom 0x0100#16 [0xAF#8] { State.reset with regs := { Regs.reset with a := 0x5C#8 }, flags := { Flags.reset with cy := true, ac := true, s := true, z := false, p := false } }
      (fun t => t.regs.a == 0x00#8 && t.pc == 0x0101#16 && t.flags == ⟨false, true, false, true, true⟩) = true := by
  decide

/-- XRA B FFH (source ex. 2) (R139). -/
theorem test_xra_2 :
    stepFrom 0x0100#16 [0xA8#8] { State.reset with regs := { Regs.reset with a := 0xFF#8, b := 0x5C#8 }, flags := { Flags.reset with cy := false, ac := false, s := false, z := false, p := false } }
      (fun t => t.regs.a == 0xA3#8 && t.pc == 0x0101#16 && t.flags == ⟨false, false, true, false, true⟩) = true := by
  decide

/-- ORA C (source) (R140). -/
theorem test_ora_1 :
    stepFrom 0x0100#16 [0xB1#8] { State.reset with regs := { Regs.reset with a := 0x33#8, c := 0x0F#8 }, flags := { Flags.reset with cy := true, ac := true, s := false, z := false, p := false } }
      (fun t => t.regs.a == 0x3F#8 && t.pc == 0x0101#16 && t.flags == ⟨false, true, false, false, true⟩) = true := by
  decide

/-- ORA A of 80H (R140). -/
theorem test_ora_2 :
    stepFrom 0x0100#16 [0xB7#8] { State.reset with regs := { Regs.reset with a := 0x80#8 }, flags := { Flags.reset with cy := false, ac := false, s := false, z := false, p := false } }
      (fun t => t.pc == 0x0101#16 && t.flags == ⟨false, false, true, false, false⟩) = true := by
  decide

/-- CMP E E5H,05H (source ex. 3) (R141). -/
theorem test_cmp_1 :
    stepFrom 0x0100#16 [0xBB#8] { State.reset with regs := { Regs.reset with a := 0xE5#8, e := 0x05#8 }, flags := { Flags.reset with cy := true, ac := false, s := false, z := false, p := false } }
      (fun t => t.pc == 0x0101#16 && t.flags == ⟨false, true, true, false, false⟩) = true := by
  decide

/-- CMP M (R141). -/
theorem test_cmp_2 :
    stepFrom 0x0100#16 [0xBE#8] { State.reset with regs := { Regs.reset with a := 0x00#8, h := 0x10#8, l := 0x00#8 }, flags := { Flags.reset with cy := false, ac := false, s := false, z := false, p := false }, mem := [(0x1000, 0xFF#8)] }
      (fun t => t.pc == 0x0101#16 && t.flags == ⟨true, false, false, false, false⟩) = true := by
  decide

/-- RLC F2H (source) (R150). -/
theorem test_rlc_1 :
    stepFrom 0x0100#16 [0x07#8] { State.reset with regs := { Regs.reset with a := 0xF2#8 }, flags := { Flags.reset with cy := false, ac := false, s := false, z := false, p := false } }
      (fun t => t.regs.a == 0xE5#8 && t.pc == 0x0101#16 && t.flags == ⟨true, false, false, false, false⟩) = true := by
  decide

/-- RLC 01H (R150). -/
theorem test_rlc_2 :
    stepFrom 0x0100#16 [0x07#8] { State.reset with regs := { Regs.reset with a := 0x01#8 }, flags := { Flags.reset with cy := true, ac := true, s := true, z := true, p := true } }
      (fun t => t.regs.a == 0x02#8 && t.pc == 0x0101#16 && t.flags == ⟨false, true, true, true, true⟩) = true := by
  decide

/-- RRC F2H (source) (R151). -/
theorem test_rrc_1 :
    stepFrom 0x0100#16 [0x0F#8] { State.reset with regs := { Regs.reset with a := 0xF2#8 }, flags := { Flags.reset with cy := true, ac := false, s := false, z := false, p := false } }
      (fun t => t.regs.a == 0x79#8 && t.pc == 0x0101#16 && t.flags == ⟨false, false, false, false, false⟩) = true := by
  decide

/-- RRC 01H (R151). -/
theorem test_rrc_2 :
    stepFrom 0x0100#16 [0x0F#8] { State.reset with regs := { Regs.reset with a := 0x01#8 }, flags := { Flags.reset with cy := false, ac := false, s := false, z := false, p := false } }
      (fun t => t.regs.a == 0x80#8 && t.pc == 0x0101#16 && t.flags == ⟨true, false, false, false, false⟩) = true := by
  decide

/-- RAL B5H CY=0 (source) (R152). -/
theorem test_ral_1 :
    stepFrom 0x0100#16 [0x17#8] { State.reset with regs := { Regs.reset with a := 0xB5#8 }, flags := { Flags.reset with cy := false, ac := false, s := false, z := false, p := false } }
      (fun t => t.regs.a == 0x6A#8 && t.pc == 0x0101#16 && t.flags == ⟨true, false, false, false, false⟩) = true := by
  decide

/-- RAL 80H CY=1 (R152). -/
theorem test_ral_2 :
    stepFrom 0x0100#16 [0x17#8] { State.reset with regs := { Regs.reset with a := 0x80#8 }, flags := { Flags.reset with cy := true, ac := false, s := false, z := false, p := false } }
      (fun t => t.regs.a == 0x01#8 && t.pc == 0x0101#16 && t.flags == ⟨true, false, false, false, false⟩) = true := by
  decide

/-- RAR 6AH CY=1 (source) (R153). -/
theorem test_rar_1 :
    stepFrom 0x0100#16 [0x1F#8] { State.reset with regs := { Regs.reset with a := 0x6A#8 }, flags := { Flags.reset with cy := true, ac := false, s := false, z := false, p := false } }
      (fun t => t.regs.a == 0xB5#8 && t.pc == 0x0101#16 && t.flags == ⟨false, false, false, false, false⟩) = true := by
  decide

/-- RAR 01H CY=0 (R153). -/
theorem test_rar_2 :
    stepFrom 0x0100#16 [0x1F#8] { State.reset with regs := { Regs.reset with a := 0x01#8 }, flags := { Flags.reset with cy := false, ac := false, s := false, z := false, p := false } }
      (fun t => t.regs.a == 0x00#8 && t.pc == 0x0101#16 && t.flags == ⟨true, false, false, false, false⟩) = true := by
  decide

/-- PUSH PSW (source ex. 2) (R160). -/
theorem test_push_1 :
    stepFrom 0x0100#16 [0xF5#8] { State.reset with regs := { Regs.reset with a := 0x1F#8 }, flags := { Flags.reset with cy := true, z := true, p := true, s := false, ac := false }, sp := 0x502A#16, mem := [(0x5028, 0x00#8), (0x5029, 0x00#8)] }
      (fun t => t.sp == 0x5028#16 && t.mem.read 0x5028#16 == 0x1F#8 && t.mem.read 0x5029#16 == 0x47#8 && t.pc == 0x0101#16) = true := by
  decide

/-- PUSH B, SP=0001H wraps (R160). -/
theorem test_push_2 :
    stepFrom 0x0100#16 [0xC5#8] { State.reset with regs := { Regs.reset with b := 0x12#8, c := 0x34#8 }, sp := 0x0001#16, mem := [(0x0000, 0x00#8), (0xFFFF, 0x00#8)] }
      (fun t => t.sp == 0xFFFF#16 && t.mem.read 0x0000#16 == 0x12#8 && t.mem.read 0xFFFF#16 == 0x34#8 && t.pc == 0x0101#16) = true := by
  decide

/-- POP PSW flags byte C3H (R161). -/
theorem test_pop_1 :
    stepFrom 0x0100#16 [0xF1#8] { State.reset with regs := { Regs.reset with a := 0x00#8 }, flags := { Flags.reset with cy := false, ac := true, s := false, z := false, p := true }, sp := 0x2C00#16, mem := [(0x2C00, 0xFF#8), (0x2C01, 0xC3#8)] }
      (fun t => t.regs.a == 0xFF#8 && t.sp == 0x2C02#16 && t.pc == 0x0101#16 && t.flags == ⟨true, false, true, true, false⟩) = true := by
  decide

/-- POP B, SP=FFFFH wraps (R161). -/
theorem test_pop_2 :
    stepFrom 0x0100#16 [0xC1#8] { State.reset with regs := { Regs.reset with b := 0x00#8, c := 0x00#8 }, sp := 0xFFFF#16, mem := [(0x0000, 0x22#8), (0xFFFF, 0x11#8)] }
      (fun t => t.regs.b == 0x22#8 && t.regs.c == 0x11#8 && t.sp == 0x0001#16 && t.pc == 0x0101#16) = true := by
  decide

/-- DAD B (source ex. 1) (R163). -/
theorem test_dad_1 :
    stepFrom 0x0100#16 [0x09#8] { State.reset with regs := { Regs.reset with b := 0x33#8, c := 0x9F#8, h := 0xA1#8, l := 0x7B#8 }, flags := { Flags.reset with cy := true } }
      (fun t => t.regs.h == 0xD5#8 && t.regs.l == 0x1A#8 && t.flags.cy == false && t.pc == 0x0101#16) = true := by
  decide

/-- DAD SP (R163). -/
theorem test_dad_2 :
    stepFrom 0x0100#16 [0x39#8] { State.reset with regs := { Regs.reset with h := 0x00#8, l := 0x02#8 }, flags := { Flags.reset with cy := false }, sp := 0xFFFE#16 }
      (fun t => t.regs.l == 0x00#8 && t.flags.cy == true && t.pc == 0x0101#16) = true := by
  decide

/-- INX D (source) (R164). -/
theorem test_inx_1 :
    stepFrom 0x0100#16 [0x13#8] { State.reset with regs := { Regs.reset with d := 0x38#8, e := 0xFF#8 }, flags := { Flags.reset with cy := false, ac := false, s := false, z := false, p := false } }
      (fun t => t.regs.d == 0x39#8 && t.regs.e == 0x00#8 && t.pc == 0x0101#16 && t.flags == ⟨false, false, false, false, false⟩) = true := by
  decide

/-- INX SP FFFFH (source) (R164). -/
theorem test_inx_2 :
    stepFrom 0x0100#16 [0x33#8] { State.reset with flags := { Flags.reset with cy := false, ac := false, s := false, z := false, p := false }, sp := 0xFFFF#16 }
      (fun t => t.sp == 0x0000#16 && t.pc == 0x0101#16 && t.flags == ⟨false, false, false, false, false⟩) = true := by
  decide

/-- DCX H (source) (R165). -/
theorem test_dcx_1 :
    stepFrom 0x0100#16 [0x2B#8] { State.reset with regs := { Regs.reset with h := 0x98#8, l := 0x00#8 }, flags := { Flags.reset with cy := false, ac := false, s := false, z := false, p := false } }
      (fun t => t.regs.h == 0x97#8 && t.regs.l == 0xFF#8 && t.pc == 0x0101#16 && t.flags == ⟨false, false, false, false, false⟩) = true := by
  decide

/-- DCX B 0000H (R165). -/
theorem test_dcx_2 :
    stepFrom 0x0100#16 [0x0B#8] { State.reset with regs := { Regs.reset with b := 0x00#8, c := 0x00#8 }, flags := { Flags.reset with cy := false, ac := false, s := false, z := false, p := false } }
      (fun t => t.regs.b == 0xFF#8 && t.regs.c == 0xFF#8 && t.pc == 0x0101#16 && t.flags == ⟨false, false, false, false, false⟩) = true := by
  decide

/-- XCHG (source) (R166). -/
theorem test_xchg_1 :
    stepFrom 0x0100#16 [0xEB#8] { State.reset with regs := { Regs.reset with h := 0x00#8, l := 0xFF#8, d := 0x33#8, e := 0x55#8 } }
      (fun t => t.regs.d == 0x00#8 && t.regs.e == 0xFF#8 && t.regs.h == 0x33#8 && t.regs.l == 0x55#8 && t.pc == 0x0101#16) = true := by
  decide

/-- XTHL (source) (R167). -/
theorem test_xthl_1 :
    stepFrom 0x0100#16 [0xE3#8] { State.reset with regs := { Regs.reset with h := 0x0B#8, l := 0x3C#8 }, sp := 0x10AD#16, mem := [(0x10AC, 0xFF#8), (0x10AD, 0xF0#8), (0x10AE, 0x0D#8), (0x10AF, 0xFF#8)] }
      (fun t => t.regs.h == 0x0D#8 && t.regs.l == 0xF0#8 && t.mem.read 0x10AD#16 == 0x3C#8 && t.mem.read 0x10AE#16 == 0x0B#8 && t.pc == 0x0101#16) = true := by
  decide

/-- XTHL SP=FFFFH wraps (R167). -/
theorem test_xthl_2 :
    stepFrom 0x0200#16 [0xE3#8] { State.reset with regs := { Regs.reset with h := 0x11#8, l := 0x22#8 }, sp := 0xFFFF#16, mem := [(0x0000, 0x44#8), (0xFFFF, 0x33#8)] }
      (fun t => t.regs.h == 0x44#8 && t.regs.l == 0x33#8 && t.mem.read 0x0000#16 == 0x11#8 && t.mem.read 0xFFFF#16 == 0x22#8 && t.pc == 0x0201#16) = true := by
  decide

/-- SPHL (source) (R168). -/
theorem test_sphl_1 :
    stepFrom 0x0100#16 [0xF9#8] { State.reset with regs := { Regs.reset with h := 0x50#8, l := 0x6C#8 }, sp := 0x0000#16 }
      (fun t => t.sp == 0x506C#16 && t.pc == 0x0101#16) = true := by
  decide

/-- LXI H,103H (source) (R180). -/
theorem test_lxi_1 :
    stepFrom 0x0100#16 [0x21#8, 0x03#8, 0x01#8] { State.reset with regs := { Regs.reset with h := 0x00#8, l := 0x00#8 } }
      (fun t => t.regs.h == 0x01#8 && t.regs.l == 0x03#8 && t.pc == 0x0103#16) = true := by
  decide

/-- LXI D at FFFEH, byte 3 at 0000H (R180). -/
theorem test_lxi_2 :
    stepFrom 0xFFFE#16 [0x11#8, 0xCD#8, 0xAB#8] { State.reset with regs := { Regs.reset with d := 0x00#8, e := 0x00#8 } }
      (fun t => t.regs.d == 0xAB#8 && t.regs.e == 0xCD#8 && t.pc == 0x0001#16) = true := by
  decide

/-- MVI M,0FFH (source) (R181). -/
theorem test_mvi_1 :
    stepFrom 0x0100#16 [0x36#8, 0xFF#8] { State.reset with regs := { Regs.reset with h := 0x3C#8, l := 0xF4#8 }, mem := [(0x3CF4, 0x00#8)] }
      (fun t => t.mem.read 0x3CF4#16 == 0xFF#8 && t.pc == 0x0102#16) = true := by
  decide

/-- MVI A,20 (source) (R181). -/
theorem test_mvi_2 :
    stepFrom 0x0100#16 [0x3E#8, 0x14#8] { State.reset with regs := { Regs.reset with a := 0x00#8 }, flags := { Flags.reset with cy := true, ac := true, s := true, z := true, p := true } }
      (fun t => t.regs.a == 0x14#8 && t.pc == 0x0102#16 && t.flags == ⟨true, true, true, true, true⟩) = true := by
  decide

/-- ADI 66 (source AD2) (R182). -/
theorem test_adi_1 :
    stepFrom 0x0100#16 [0xC6#8, 0x42#8] { State.reset with regs := { Regs.reset with a := 0x14#8 }, flags := { Flags.reset with cy := true, ac := true, s := true, z := true, p := true } }
      (fun t => t.regs.a == 0x56#8 && t.pc == 0x0102#16 && t.flags == ⟨false, false, false, false, true⟩) = true := by
  decide

/-- ADI -66 (source AD3) (R182). -/
theorem test_adi_2 :
    stepFrom 0x0100#16 [0xC6#8, 0xBE#8] { State.reset with regs := { Regs.reset with a := 0x56#8 }, flags := { Flags.reset with cy := false, ac := false, s := false, z := false, p := false } }
      (fun t => t.regs.a == 0x14#8 && t.pc == 0x0102#16 && t.flags == ⟨true, true, false, false, true⟩) = true := by
  decide

/-- ACI -66 CY=0 (source C2) (R183). -/
theorem test_aci_1 :
    stepFrom 0x0100#16 [0xCE#8, 0xBE#8] { State.reset with regs := { Regs.reset with a := 0x56#8 }, flags := { Flags.reset with cy := false, ac := false, s := false, z := false, p := false } }
      (fun t => t.regs.a == 0x14#8 && t.pc == 0x0102#16 && t.flags == ⟨true, true, false, false, true⟩) = true := by
  decide

/-- ACI 66 CY=1 (source C3) (R183). -/
theorem test_aci_2 :
    stepFrom 0x0100#16 [0xCE#8, 0x42#8] { State.reset with regs := { Regs.reset with a := 0x14#8 }, flags := { Flags.reset with cy := true, ac := true, s := false, z := false, p := true } }
      (fun t => t.regs.a == 0x57#8 && t.pc == 0x0102#16 && t.flags == ⟨false, false, false, false, false⟩) = true := by
  decide

/-- SUI 1 from 0 (source) (R184). -/
theorem test_sui_1 :
    stepFrom 0x0100#16 [0xD6#8, 0x01#8] { State.reset with regs := { Regs.reset with a := 0x00#8 }, flags := { Flags.reset with cy := false, ac := false, s := false, z := true, p := false } }
      (fun t => t.regs.a == 0xFF#8 && t.pc == 0x0102#16 && t.flags == ⟨true, false, true, false, true⟩) = true := by
  decide

/-- SUI 0 (R184). -/
theorem test_sui_2 :
    stepFrom 0x0100#16 [0xD6#8, 0x00#8] { State.reset with regs := { Regs.reset with a := 0x10#8 }, flags := { Flags.reset with cy := true, ac := false, s := false, z := false, p := false } }
      (fun t => t.pc == 0x0102#16 && t.flags == ⟨false, true, false, false, false⟩) = true := by
  decide

/-- SBI 1 CY=0 (source) (R185). -/
theorem test_sbi_1 :
    stepFrom 0x0100#16 [0xDE#8, 0x01#8] { State.reset with regs := { Regs.reset with a := 0x00#8 }, flags := { Flags.reset with cy := false, ac := false, s := false, z := true, p := true } }
      (fun t => t.regs.a == 0xFF#8 && t.pc == 0x0102#16 && t.flags == ⟨true, false, true, false, true⟩) = true := by
  decide

/-- SBI 1 CY=1 (source) (R185). -/
theorem test_sbi_2 :
    stepFrom 0x0100#16 [0xDE#8, 0x01#8] { State.reset with regs := { Regs.reset with a := 0x00#8 }, flags := { Flags.reset with cy := true, ac := false, s := false, z := true, p := true } }
      (fun t => t.regs.a == 0xFE#8 && t.pc == 0x0102#16 && t.flags == ⟨true, false, true, false, false⟩) = true := by
  decide

/-- ANI 0FH (source) (R186). -/
theorem test_ani_1 :
    stepFrom 0x0100#16 [0xE6#8, 0x0F#8] { State.reset with regs := { Regs.reset with a := 0x3A#8 }, flags := { Flags.reset with cy := true, ac := true, s := true, z := true, p := true } }
      (fun t => t.regs.a == 0x0A#8 && t.pc == 0x0102#16 && t.flags == ⟨false, true, false, false, true⟩) = true := by
  decide

/-- ANI 80H sign test (3.12.10) (R186). -/
theorem test_ani_2 :
    stepFrom 0x0100#16 [0xE6#8, 0x80#8] { State.reset with regs := { Regs.reset with a := 0x7F#8 }, flags := { Flags.reset with cy := true, ac := false, s := false, z := false, p := false } }
      (fun t => t.regs.a == 0x00#8 && t.pc == 0x0102#16 && t.flags == ⟨false, false, false, true, true⟩) = true := by
  decide

/-- XRI 81H (source) (R187). -/
theorem test_xri_1 :
    stepFrom 0x0100#16 [0xEE#8, 0x81#8] { State.reset with regs := { Regs.reset with a := 0x3B#8 }, flags := { Flags.reset with cy := true, ac := false, s := false, z := false, p := false } }
      (fun t => t.regs.a == 0xBA#8 && t.pc == 0x0102#16 && t.flags == ⟨false, false, true, false, false⟩) = true := by
  decide

/-- ORI 0FH (source) (R188). -/
theorem test_ori_1 :
    stepFrom 0x0100#16 [0xF6#8, 0x0F#8] { State.reset with regs := { Regs.reset with a := 0xB5#8 }, flags := { Flags.reset with cy := true, ac := false, s := false, z := false, p := false } }
      (fun t => t.regs.a == 0xBF#8 && t.pc == 0x0102#16 && t.flags == ⟨false, false, true, false, false⟩) = true := by
  decide

/-- CPI 40H (source) (R189). -/
theorem test_cpi_1 :
    stepFrom 0x0100#16 [0xFE#8, 0x40#8] { State.reset with regs := { Regs.reset with a := 0x4A#8 }, flags := { Flags.reset with cy := true, ac := true, s := true, z := true, p := true } }
      (fun t => t.pc == 0x0102#16 && t.flags == ⟨false, true, false, false, true⟩) = true := by
  decide

/-- CPI equal (R189). -/
theorem test_cpi_2 :
    stepFrom 0x0100#16 [0xFE#8, 0xFF#8] { State.reset with regs := { Regs.reset with a := 0xFF#8 }, flags := { Flags.reset with cy := false, ac := false, s := false, z := false, p := false } }
      (fun t => t.pc == 0x0102#16 && t.flags == ⟨false, true, false, true, true⟩) = true := by
  decide

/-- STA 5B3H (source) (R200). -/
theorem test_sta_1 :
    stepFrom 0x0100#16 [0x32#8, 0xB3#8, 0x05#8] { State.reset with regs := { Regs.reset with a := 0x9E#8 }, mem := [(0x05B3, 0x00#8)] }
      (fun t => t.mem.read 0x05B3#16 == 0x9E#8 && t.pc == 0x0103#16) = true := by
  decide

/-- STA into own third byte (R200). -/
theorem test_sta_2 :
    stepFrom 0x0100#16 [0x32#8, 0x02#8, 0x01#8] { State.reset with regs := { Regs.reset with a := 0x55#8 } }
      (fun t => t.mem.read 0x0102#16 == 0x55#8 && t.pc == 0x0103#16) = true := by
  decide

/-- LDA 300H (source) (R201). -/
theorem test_lda_1 :
    stepFrom 0x0100#16 [0x3A#8, 0x00#8, 0x03#8] { State.reset with regs := { Regs.reset with a := 0x00#8 }, mem := [(0x0300, 0x6B#8)] }
      (fun t => t.regs.a == 0x6B#8 && t.pc == 0x0103#16) = true := by
  decide

/-- SHLD 10AH (source) (R202). -/
theorem test_shld_1 :
    stepFrom 0x0200#16 [0x22#8, 0x0A#8, 0x01#8] { State.reset with regs := { Regs.reset with h := 0xAE#8, l := 0x29#8 }, mem := [(0x0109, 0x00#8), (0x010A, 0x00#8), (0x010B, 0x00#8), (0x010C, 0x00#8)] }
      (fun t => t.mem.read 0x010A#16 == 0x29#8 && t.mem.read 0x010B#16 == 0xAE#8 && t.pc == 0x0203#16) = true := by
  decide

/-- SHLD FFFFH wraps (R202). -/
theorem test_shld_2 :
    stepFrom 0x0100#16 [0x22#8, 0xFF#8, 0xFF#8] { State.reset with regs := { Regs.reset with h := 0x12#8, l := 0x34#8 }, mem := [(0x0000, 0x00#8), (0xFFFF, 0x00#8)] }
      (fun t => t.mem.read 0x0000#16 == 0x12#8 && t.mem.read 0xFFFF#16 == 0x34#8 && t.pc == 0x0103#16) = true := by
  decide

/-- LHLD 25BH (source) (R203). -/
theorem test_lhld_1 :
    stepFrom 0x0100#16 [0x2A#8, 0x5B#8, 0x02#8] { State.reset with regs := { Regs.reset with h := 0x00#8, l := 0x00#8 }, mem := [(0x025B, 0xFF#8), (0x025C, 0x03#8)] }
      (fun t => t.regs.h == 0x03#8 && t.regs.l == 0xFF#8 && t.pc == 0x0103#16) = true := by
  decide

/-- LHLD FFFFH wraps (R203). -/
theorem test_lhld_2 :
    stepFrom 0x0100#16 [0x2A#8, 0xFF#8, 0xFF#8] { State.reset with regs := { Regs.reset with h := 0x00#8, l := 0x00#8 }, mem := [(0x0000, 0x56#8), (0xFFFF, 0x78#8)] }
      (fun t => t.regs.h == 0x56#8 && t.regs.l == 0x78#8 && t.pc == 0x0103#16) = true := by
  decide

/-- PCHL (source ex. 1) (R210). -/
theorem test_pchl_1 :
    stepFrom 0x0100#16 [0xE9#8] { State.reset with regs := { Regs.reset with h := 0x41#8, l := 0x3E#8 } }
      (fun t => t.pc == 0x413E#16) = true := by
  decide

/-- JMP 3E00H (source) (R211). -/
theorem test_jmp_1 :
    stepFrom 0x3C00#16 [0xC3#8, 0x00#8, 0x3E#8] State.reset
      (fun t => t.pc == 0x3E00#16) = true := by
  decide

/-- JC with CY=1 (R212). -/
theorem test_jc_1 :
    stepFrom 0x0100#16 [0xDA#8, 0x34#8, 0x12#8] { State.reset with flags := { Flags.reset with cy := true } }
      (fun t => t.pc == 0x1234#16) = true := by
  decide

/-- JC with CY=0 (R212). -/
theorem test_jc_2 :
    stepFrom 0x0100#16 [0xDA#8, 0x34#8, 0x12#8] { State.reset with flags := { Flags.reset with cy := false } }
      (fun t => t.pc == 0x0103#16) = true := by
  decide

/-- JNC with CY=1 (R213). -/
theorem test_jnc_1 :
    stepFrom 0x0100#16 [0xD2#8, 0x34#8, 0x12#8] { State.reset with flags := { Flags.reset with cy := true } }
      (fun t => t.pc == 0x0103#16) = true := by
  decide

/-- JNC with CY=0 (R213). -/
theorem test_jnc_2 :
    stepFrom 0x0100#16 [0xD2#8, 0x34#8, 0x12#8] { State.reset with flags := { Flags.reset with cy := false } }
      (fun t => t.pc == 0x1234#16) = true := by
  decide

/-- JZ with Z=1 (R214). -/
theorem test_jz_1 :
    stepFrom 0x0100#16 [0xCA#8, 0x34#8, 0x12#8] { State.reset with flags := { Flags.reset with z := true } }
      (fun t => t.pc == 0x1234#16) = true := by
  decide

/-- JZ with Z=0 (R214). -/
theorem test_jz_2 :
    stepFrom 0x0100#16 [0xCA#8, 0x34#8, 0x12#8] { State.reset with flags := { Flags.reset with z := false } }
      (fun t => t.pc == 0x0103#16) = true := by
  decide

/-- JNZ with Z=1 (R215). -/
theorem test_jnz_1 :
    stepFrom 0x0100#16 [0xC2#8, 0x34#8, 0x12#8] { State.reset with flags := { Flags.reset with z := true } }
      (fun t => t.pc == 0x0103#16) = true := by
  decide

/-- JNZ with Z=0 (R215). -/
theorem test_jnz_2 :
    stepFrom 0x0100#16 [0xC2#8, 0x34#8, 0x12#8] { State.reset with flags := { Flags.reset with z := false } }
      (fun t => t.pc == 0x1234#16) = true := by
  decide

/-- JM with S=1 (R216). -/
theorem test_jm_1 :
    stepFrom 0x0100#16 [0xFA#8, 0x34#8, 0x12#8] { State.reset with flags := { Flags.reset with s := true } }
      (fun t => t.pc == 0x1234#16) = true := by
  decide

/-- JM with S=0 (R216). -/
theorem test_jm_2 :
    stepFrom 0x0100#16 [0xFA#8, 0x34#8, 0x12#8] { State.reset with flags := { Flags.reset with s := false } }
      (fun t => t.pc == 0x0103#16) = true := by
  decide

/-- JP with S=1 (R217). -/
theorem test_jp_1 :
    stepFrom 0x0100#16 [0xF2#8, 0x34#8, 0x12#8] { State.reset with flags := { Flags.reset with s := true } }
      (fun t => t.pc == 0x0103#16) = true := by
  decide

/-- JP with S=0 (R217). -/
theorem test_jp_2 :
    stepFrom 0x0100#16 [0xF2#8, 0x34#8, 0x12#8] { State.reset with flags := { Flags.reset with s := false } }
      (fun t => t.pc == 0x1234#16) = true := by
  decide

/-- JPE with P=1 (R218). -/
theorem test_jpe_1 :
    stepFrom 0x0100#16 [0xEA#8, 0x34#8, 0x12#8] { State.reset with flags := { Flags.reset with p := true } }
      (fun t => t.pc == 0x1234#16) = true := by
  decide

/-- JPE with P=0 (R218). -/
theorem test_jpe_2 :
    stepFrom 0x0100#16 [0xEA#8, 0x34#8, 0x12#8] { State.reset with flags := { Flags.reset with p := false } }
      (fun t => t.pc == 0x0103#16) = true := by
  decide

/-- JPO with P=1 (R219). -/
theorem test_jpo_1 :
    stepFrom 0x0100#16 [0xE2#8, 0x34#8, 0x12#8] { State.reset with flags := { Flags.reset with p := true } }
      (fun t => t.pc == 0x0103#16) = true := by
  decide

/-- JPO with P=0 (R219). -/
theorem test_jpo_2 :
    stepFrom 0x0100#16 [0xE2#8, 0x34#8, 0x12#8] { State.reset with flags := { Flags.reset with p := false } }
      (fun t => t.pc == 0x1234#16) = true := by
  decide

/-- CALL 3C00H (source 2.7.5) (R221). -/
theorem test_call_1 :
    stepFrom 0x2C00#16 [0xCD#8, 0x00#8, 0x3C#8] { State.reset with sp := 0x2400#16, mem := [(0x23FE, 0x00#8), (0x23FF, 0x00#8)] }
      (fun t => t.sp == 0x23FE#16 && t.mem.read 0x23FE#16 == 0x03#8 && t.mem.read 0x23FF#16 == 0x2C#8 && t.pc == 0x3C00#16) = true := by
  decide

/-- CALL with SP=0001H wraps (R221). -/
theorem test_call_2 :
    stepFrom 0x2C00#16 [0xCD#8, 0x00#8, 0x30#8] { State.reset with sp := 0x0001#16, mem := [(0x0000, 0x00#8), (0xFFFF, 0x00#8)] }
      (fun t => t.sp == 0xFFFF#16 && t.mem.read 0x0000#16 == 0x2C#8 && t.mem.read 0xFFFF#16 == 0x03#8 && t.pc == 0x3000#16) = true := by
  decide

/-- CC with CY=1 (R222). -/
theorem test_cc_1 :
    stepFrom 0x2C00#16 [0xDC#8, 0x00#8, 0x3C#8] { State.reset with flags := { Flags.reset with cy := true }, sp := 0x2400#16, mem := [(0x23FE, 0x00#8), (0x23FF, 0x00#8)] }
      (fun t => t.sp == 0x23FE#16 && t.mem.read 0x23FE#16 == 0x03#8 && t.mem.read 0x23FF#16 == 0x2C#8 && t.pc == 0x3C00#16) = true := by
  decide

/-- CC with CY=0 (R222). -/
theorem test_cc_2 :
    stepFrom 0x2C00#16 [0xDC#8, 0x00#8, 0x3C#8] { State.reset with flags := { Flags.reset with cy := false }, sp := 0x2400#16, mem := [(0x23FE, 0x00#8), (0x23FF, 0x00#8)] }
      (fun t => t.pc == 0x2C03#16) = true := by
  decide

/-- CNC with CY=1 (R223). -/
theorem test_cnc_1 :
    stepFrom 0x2C00#16 [0xD4#8, 0x00#8, 0x3C#8] { State.reset with flags := { Flags.reset with cy := true }, sp := 0x2400#16, mem := [(0x23FE, 0x00#8), (0x23FF, 0x00#8)] }
      (fun t => t.pc == 0x2C03#16) = true := by
  decide

/-- CNC with CY=0 (R223). -/
theorem test_cnc_2 :
    stepFrom 0x2C00#16 [0xD4#8, 0x00#8, 0x3C#8] { State.reset with flags := { Flags.reset with cy := false }, sp := 0x2400#16, mem := [(0x23FE, 0x00#8), (0x23FF, 0x00#8)] }
      (fun t => t.sp == 0x23FE#16 && t.mem.read 0x23FE#16 == 0x03#8 && t.mem.read 0x23FF#16 == 0x2C#8 && t.pc == 0x3C00#16) = true := by
  decide

/-- CZ with Z=1 (R224). -/
theorem test_cz_1 :
    stepFrom 0x2C00#16 [0xCC#8, 0x00#8, 0x3C#8] { State.reset with flags := { Flags.reset with z := true }, sp := 0x2400#16, mem := [(0x23FE, 0x00#8), (0x23FF, 0x00#8)] }
      (fun t => t.sp == 0x23FE#16 && t.mem.read 0x23FE#16 == 0x03#8 && t.mem.read 0x23FF#16 == 0x2C#8 && t.pc == 0x3C00#16) = true := by
  decide

/-- CZ with Z=0 (R224). -/
theorem test_cz_2 :
    stepFrom 0x2C00#16 [0xCC#8, 0x00#8, 0x3C#8] { State.reset with flags := { Flags.reset with z := false }, sp := 0x2400#16, mem := [(0x23FE, 0x00#8), (0x23FF, 0x00#8)] }
      (fun t => t.pc == 0x2C03#16) = true := by
  decide

/-- CNZ with Z=1 (R225). -/
theorem test_cnz_1 :
    stepFrom 0x2C00#16 [0xC4#8, 0x00#8, 0x3C#8] { State.reset with flags := { Flags.reset with z := true }, sp := 0x2400#16, mem := [(0x23FE, 0x00#8), (0x23FF, 0x00#8)] }
      (fun t => t.pc == 0x2C03#16) = true := by
  decide

/-- CNZ with Z=0 (R225). -/
theorem test_cnz_2 :
    stepFrom 0x2C00#16 [0xC4#8, 0x00#8, 0x3C#8] { State.reset with flags := { Flags.reset with z := false }, sp := 0x2400#16, mem := [(0x23FE, 0x00#8), (0x23FF, 0x00#8)] }
      (fun t => t.sp == 0x23FE#16 && t.mem.read 0x23FE#16 == 0x03#8 && t.mem.read 0x23FF#16 == 0x2C#8 && t.pc == 0x3C00#16) = true := by
  decide

/-- CM with S=1 (R226). -/
theorem test_cm_1 :
    stepFrom 0x2C00#16 [0xFC#8, 0x00#8, 0x3C#8] { State.reset with flags := { Flags.reset with s := true }, sp := 0x2400#16, mem := [(0x23FE, 0x00#8), (0x23FF, 0x00#8)] }
      (fun t => t.sp == 0x23FE#16 && t.mem.read 0x23FE#16 == 0x03#8 && t.mem.read 0x23FF#16 == 0x2C#8 && t.pc == 0x3C00#16) = true := by
  decide

/-- CM with S=0 (R226). -/
theorem test_cm_2 :
    stepFrom 0x2C00#16 [0xFC#8, 0x00#8, 0x3C#8] { State.reset with flags := { Flags.reset with s := false }, sp := 0x2400#16, mem := [(0x23FE, 0x00#8), (0x23FF, 0x00#8)] }
      (fun t => t.pc == 0x2C03#16) = true := by
  decide

/-- CP with S=1 (R227). -/
theorem test_cp_1 :
    stepFrom 0x2C00#16 [0xF4#8, 0x00#8, 0x3C#8] { State.reset with flags := { Flags.reset with s := true }, sp := 0x2400#16, mem := [(0x23FE, 0x00#8), (0x23FF, 0x00#8)] }
      (fun t => t.pc == 0x2C03#16) = true := by
  decide

/-- CP with S=0 (R227). -/
theorem test_cp_2 :
    stepFrom 0x2C00#16 [0xF4#8, 0x00#8, 0x3C#8] { State.reset with flags := { Flags.reset with s := false }, sp := 0x2400#16, mem := [(0x23FE, 0x00#8), (0x23FF, 0x00#8)] }
      (fun t => t.sp == 0x23FE#16 && t.mem.read 0x23FE#16 == 0x03#8 && t.mem.read 0x23FF#16 == 0x2C#8 && t.pc == 0x3C00#16) = true := by
  decide

/-- CPE with P=1 (R228). -/
theorem test_cpe_1 :
    stepFrom 0x2C00#16 [0xEC#8, 0x00#8, 0x3C#8] { State.reset with flags := { Flags.reset with p := true }, sp := 0x2400#16, mem := [(0x23FE, 0x00#8), (0x23FF, 0x00#8)] }
      (fun t => t.sp == 0x23FE#16 && t.mem.read 0x23FE#16 == 0x03#8 && t.mem.read 0x23FF#16 == 0x2C#8 && t.pc == 0x3C00#16) = true := by
  decide

/-- CPE with P=0 (R228). -/
theorem test_cpe_2 :
    stepFrom 0x2C00#16 [0xEC#8, 0x00#8, 0x3C#8] { State.reset with flags := { Flags.reset with p := false }, sp := 0x2400#16, mem := [(0x23FE, 0x00#8), (0x23FF, 0x00#8)] }
      (fun t => t.pc == 0x2C03#16) = true := by
  decide

/-- CPO with P=1 (R229). -/
theorem test_cpo_1 :
    stepFrom 0x2C00#16 [0xE4#8, 0x00#8, 0x3C#8] { State.reset with flags := { Flags.reset with p := true }, sp := 0x2400#16, mem := [(0x23FE, 0x00#8), (0x23FF, 0x00#8)] }
      (fun t => t.pc == 0x2C03#16) = true := by
  decide

/-- CPO with P=0 (R229). -/
theorem test_cpo_2 :
    stepFrom 0x2C00#16 [0xE4#8, 0x00#8, 0x3C#8] { State.reset with flags := { Flags.reset with p := false }, sp := 0x2400#16, mem := [(0x23FE, 0x00#8), (0x23FF, 0x00#8)] }
      (fun t => t.sp == 0x23FE#16 && t.mem.read 0x23FE#16 == 0x03#8 && t.mem.read 0x23FF#16 == 0x2C#8 && t.pc == 0x3C00#16) = true := by
  decide

/-- RET (source 2.7.5) (R231). -/
theorem test_ret_1 :
    stepFrom 0x3C10#16 [0xC9#8] { State.reset with sp := 0x23FE#16, mem := [(0x23FE, 0x03#8), (0x23FF, 0x2C#8)] }
      (fun t => t.sp == 0x2400#16 && t.pc == 0x2C03#16) = true := by
  decide

/-- RET with SP=FFFFH wraps (R231). -/
theorem test_ret_2 :
    stepFrom 0x3C10#16 [0xC9#8] { State.reset with sp := 0xFFFF#16, mem := [(0x0000, 0x12#8), (0xFFFF, 0x34#8)] }
      (fun t => t.sp == 0x0001#16 && t.pc == 0x1234#16) = true := by
  decide

/-- RC with CY=1 (R232). -/
theorem test_rc_1 :
    stepFrom 0x3C10#16 [0xD8#8] { State.reset with flags := { Flags.reset with cy := true }, sp := 0x23FE#16, mem := [(0x23FE, 0x03#8), (0x23FF, 0x2C#8)] }
      (fun t => t.sp == 0x2400#16 && t.pc == 0x2C03#16) = true := by
  decide

/-- RC with CY=0 (R232). -/
theorem test_rc_2 :
    stepFrom 0x3C10#16 [0xD8#8] { State.reset with flags := { Flags.reset with cy := false }, sp := 0x23FE#16, mem := [(0x23FE, 0x03#8), (0x23FF, 0x2C#8)] }
      (fun t => t.pc == 0x3C11#16) = true := by
  decide

/-- RNC with CY=1 (R233). -/
theorem test_rnc_1 :
    stepFrom 0x3C10#16 [0xD0#8] { State.reset with flags := { Flags.reset with cy := true }, sp := 0x23FE#16, mem := [(0x23FE, 0x03#8), (0x23FF, 0x2C#8)] }
      (fun t => t.pc == 0x3C11#16) = true := by
  decide

/-- RNC with CY=0 (R233). -/
theorem test_rnc_2 :
    stepFrom 0x3C10#16 [0xD0#8] { State.reset with flags := { Flags.reset with cy := false }, sp := 0x23FE#16, mem := [(0x23FE, 0x03#8), (0x23FF, 0x2C#8)] }
      (fun t => t.sp == 0x2400#16 && t.pc == 0x2C03#16) = true := by
  decide

/-- RZ with Z=1 (R234). -/
theorem test_rz_1 :
    stepFrom 0x3C10#16 [0xC8#8] { State.reset with flags := { Flags.reset with z := true }, sp := 0x23FE#16, mem := [(0x23FE, 0x03#8), (0x23FF, 0x2C#8)] }
      (fun t => t.sp == 0x2400#16 && t.pc == 0x2C03#16) = true := by
  decide

/-- RZ with Z=0 (R234). -/
theorem test_rz_2 :
    stepFrom 0x3C10#16 [0xC8#8] { State.reset with flags := { Flags.reset with z := false }, sp := 0x23FE#16, mem := [(0x23FE, 0x03#8), (0x23FF, 0x2C#8)] }
      (fun t => t.pc == 0x3C11#16) = true := by
  decide

/-- RNZ with Z=1 (R235). -/
theorem test_rnz_1 :
    stepFrom 0x3C10#16 [0xC0#8] { State.reset with flags := { Flags.reset with z := true }, sp := 0x23FE#16, mem := [(0x23FE, 0x03#8), (0x23FF, 0x2C#8)] }
      (fun t => t.pc == 0x3C11#16) = true := by
  decide

/-- RNZ with Z=0 (R235). -/
theorem test_rnz_2 :
    stepFrom 0x3C10#16 [0xC0#8] { State.reset with flags := { Flags.reset with z := false }, sp := 0x23FE#16, mem := [(0x23FE, 0x03#8), (0x23FF, 0x2C#8)] }
      (fun t => t.sp == 0x2400#16 && t.pc == 0x2C03#16) = true := by
  decide

/-- RM with S=1 (R236). -/
theorem test_rm_1 :
    stepFrom 0x3C10#16 [0xF8#8] { State.reset with flags := { Flags.reset with s := true }, sp := 0x23FE#16, mem := [(0x23FE, 0x03#8), (0x23FF, 0x2C#8)] }
      (fun t => t.sp == 0x2400#16 && t.pc == 0x2C03#16) = true := by
  decide

/-- RM with S=0 (R236). -/
theorem test_rm_2 :
    stepFrom 0x3C10#16 [0xF8#8] { State.reset with flags := { Flags.reset with s := false }, sp := 0x23FE#16, mem := [(0x23FE, 0x03#8), (0x23FF, 0x2C#8)] }
      (fun t => t.pc == 0x3C11#16) = true := by
  decide

/-- RP with S=1 (R237). -/
theorem test_rp_1 :
    stepFrom 0x3C10#16 [0xF0#8] { State.reset with flags := { Flags.reset with s := true }, sp := 0x23FE#16, mem := [(0x23FE, 0x03#8), (0x23FF, 0x2C#8)] }
      (fun t => t.pc == 0x3C11#16) = true := by
  decide

/-- RP with S=0 (R237). -/
theorem test_rp_2 :
    stepFrom 0x3C10#16 [0xF0#8] { State.reset with flags := { Flags.reset with s := false }, sp := 0x23FE#16, mem := [(0x23FE, 0x03#8), (0x23FF, 0x2C#8)] }
      (fun t => t.sp == 0x2400#16 && t.pc == 0x2C03#16) = true := by
  decide

/-- RPE with P=1 (R238). -/
theorem test_rpe_1 :
    stepFrom 0x3C10#16 [0xE8#8] { State.reset with flags := { Flags.reset with p := true }, sp := 0x23FE#16, mem := [(0x23FE, 0x03#8), (0x23FF, 0x2C#8)] }
      (fun t => t.sp == 0x2400#16 && t.pc == 0x2C03#16) = true := by
  decide

/-- RPE with P=0 (R238). -/
theorem test_rpe_2 :
    stepFrom 0x3C10#16 [0xE8#8] { State.reset with flags := { Flags.reset with p := false }, sp := 0x23FE#16, mem := [(0x23FE, 0x03#8), (0x23FF, 0x2C#8)] }
      (fun t => t.pc == 0x3C11#16) = true := by
  decide

/-- RPO with P=1 (R239). -/
theorem test_rpo_1 :
    stepFrom 0x3C10#16 [0xE0#8] { State.reset with flags := { Flags.reset with p := true }, sp := 0x23FE#16, mem := [(0x23FE, 0x03#8), (0x23FF, 0x2C#8)] }
      (fun t => t.pc == 0x3C11#16) = true := by
  decide

/-- RPO with P=0 (R239). -/
theorem test_rpo_2 :
    stepFrom 0x3C10#16 [0xE0#8] { State.reset with flags := { Flags.reset with p := false }, sp := 0x23FE#16, mem := [(0x23FE, 0x03#8), (0x23FF, 0x2C#8)] }
      (fun t => t.sp == 0x2400#16 && t.pc == 0x2C03#16) = true := by
  decide

/-- RST 1 (R241). -/
theorem test_rst_1 :
    stepFrom 0x3C0B#16 [0xCF#8] { State.reset with sp := 0x2400#16, mem := [(0x23FE, 0x00#8), (0x23FF, 0x00#8)] }
      (fun t => t.sp == 0x23FE#16 && t.mem.read 0x23FE#16 == 0x0C#8 && t.mem.read 0x23FF#16 == 0x3C#8 && t.pc == 0x0008#16) = true := by
  decide

/-- RST 7 (R241). -/
theorem test_rst_2 :
    stepFrom 0x3C0B#16 [0xFF#8] { State.reset with sp := 0x2400#16, mem := [(0x23FE, 0x00#8), (0x23FF, 0x00#8)] }
      (fun t => t.sp == 0x23FE#16 && t.mem.read 0x23FE#16 == 0x0C#8 && t.mem.read 0x23FF#16 == 0x3C#8 && t.pc == 0x0038#16) = true := by
  decide

/-- EI (R260). -/
theorem test_ei_1 :
    stepFrom 0x0100#16 [0xFB#8] { State.reset with inte := false }
      (fun t => t.inte == true && t.pc == 0x0101#16) = true := by
  decide

/-- EI when already 1 (R260). -/
theorem test_ei_2 :
    stepFrom 0x0100#16 [0xFB#8] { State.reset with inte := true }
      (fun t => t.pc == 0x0101#16) = true := by
  decide

/-- DI (R261). -/
theorem test_di_1 :
    stepFrom 0x0100#16 [0xF3#8] { State.reset with inte := true }
      (fun t => t.inte == false && t.pc == 0x0101#16) = true := by
  decide

/-- IN 0 (source) (R263). -/
theorem test_in_1 :
    stepFrom 0x0200#16 [0xDB#8, 0x00#8] { State.reset with regs := { Regs.reset with a := 0x00#8 }, inputs := [0x41#8] }
      (fun t => t.regs.a == 0x41#8 && t.pc == 0x0202#16) = true := by
  decide

/-- IN 5, bits untouched (R263). -/
theorem test_in_2 :
    stepFrom 0x0200#16 [0xDB#8, 0x05#8] { State.reset with regs := { Regs.reset with a := 0xFF#8 }, flags := { Flags.reset with cy := true, ac := true, s := true, z := true, p := true }, inputs := [0x00#8] }
      (fun t => t.regs.a == 0x00#8 && t.pc == 0x0202#16 && t.flags == ⟨true, true, true, true, true⟩) = true := by
  decide

/-- OUT 1FH (R264). -/
theorem test_out_1 :
    stepFrom 0x0200#16 [0xD3#8, 0x1F#8] { State.reset with regs := { Regs.reset with a := 0x7E#8 } }
      (fun t => t.outTrace == [(0x1F#8, 0x7E#8)] && t.pc == 0x0202#16) = true := by
  decide

/-- OUT 8 (source 3.19.2) (R264). -/
theorem test_out_2 :
    stepFrom 0x0200#16 [0xD3#8, 0x08#8] { State.reset with regs := { Regs.reset with a := 0x00#8 } }
      (fun t => t.outTrace == [(0x08#8, 0x00#8)] && t.pc == 0x0202#16) = true := by
  decide

/-- HLT (R265). -/
theorem test_hlt_1 :
    stepFrom 0x3C0B#16 [0x76#8] { State.reset with inte := true }
      (fun t => t.run == .stopped && t.pc == 0x3C0C#16) = true := by
  decide

/-! ## The assembler (`49_assembler_pseudo_macros.md`) -/

/-- The source assembles to the object, with the values FF00H to FFFFH taken for one byte (R295's negative numbers, D20). -/
def assemblesTo (source : List String) (object : List (Word × Byte)) : Bool :=
  match Asm.assemble (fun w => 0xFF00 ≤ w.toNat) 60 (source.map String.toList) with
  | .ok o => o == object
  | .error _ => false

/-- The source is rejected with the error. -/
def rejectedWith (source : List String) (e : Asm.AsmError) : Bool :=
  match Asm.assemble (fun _ => false) 60 (source.map String.toList) with
  | .ok _ => false
  | .error e' => e' == e

/-- ORG example 1 (R304). -/
theorem test_asm_org :
    assemblesTo ["  ORG 1000H", "  MOV A,C", "  ADI 2", "  JMP NEXT", "HERE: ORG 1050H", "NEXT: XRA A", "  END"]
      [(0x1000#16, 0x79#8), (0x1001#16, 0xC6#8), (0x1002#16, 0x02#8), (0x1003#16, 0xC3#8), (0x1004#16, 0x50#8),
        (0x1005#16, 0x10#8), (0x1050#16, 0xAF#8)] = true := by
  decide +kernel

/-- The order of operators (R297, V13). -/
theorem test_asm_operator_order :
    assemblesTo [" DB 10H+3*2, (10H+3)*2", " MVI A,0FFH AND NOT 0FH", " END"]
      [(0#16, 0x16#8), (1#16, 0x26#8), (2#16, 0x3E#8), (3#16, 0xF0#8)] = true := by
  decide +kernel

/-- DS stores nothing (V13), a string of DB (R300) and an instruction in parentheses (R294). -/
theorem test_asm_data :
    assemblesTo [" ORG 10H", " DS 2", " DB 'AB'", "INS: DB (ADD C), -03H", " END"]
      [(0x12#16, 0x41#8), (0x13#16, 0x42#8), (0x14#16, 0x81#8), (0x15#16, 0xFD#8)] = true := by
  decide +kernel

/-- Registers as numbers and pairs by name (R287). -/
theorem test_asm_registers :
    assemblesTo ["REG4 EQU 4", " MVI REG4,2EH", " MVI 8/2,2EH", " PUSH D", " INX SP", " MOV A,7-1", " END"]
      [(0#16, 0x26#8), (1#16, 0x2E#8), (2#16, 0x26#8), (3#16, 0x2E#8), (4#16, 0xD5#8), (5#16, 0x33#8), (6#16, 0x7E#8)]
      = true := by
  decide +kernel

/-- Parameters, one of them a comment, one missing (R312). -/
theorem test_asm_parameters :
    assemblesTo ["MAC1 MACRO P1, P2, COMMENT", " XRA P2", " DCR P1 COMMENT", " ENDM", " MAC1 C, D, '; DECREMENT REG'",
      " MAC1 E, B", " END"] [(0#16, 0xAA#8), (1#16, 0x0D#8), (2#16, 0xA8#8), (3#16, 0x1D#8)] = true := by
  decide +kernel

/-- A label of an expansion is its own (R314, R318). -/
theorem test_asm_local_label :
    assemblesTo ["T MACRO REG", "LOOP: DCR REG", " JNZ LOOP", " ENDM", " T C", " T E", " END"]
      [(0#16, 0x0D#8), (1#16, 0xC2#8), (2#16, 0x00#8), (3#16, 0x00#8), (4#16, 0x1D#8), (5#16, 0xC2#8), (6#16, 0x04#8),
        (7#16, 0x00#8)] = true := by
  decide +kernel

/-- SET of a globally SET name is global; of another, local (R316). -/
theorem test_asm_set_scope :
    assemblesTo ["STMAC MACRO", "SYM SET 5", " DB SYM", " ENDM", "SYM SET 0", " DB SYM", " STMAC", " DB SYM", " END"]
      [(0#16, 0x00#8), (1#16, 0x05#8), (2#16, 0x05#8)] = true ∧
    rejectedWith ["STMAC MACRO", "SYM SET 5", " DB SYM", " ENDM", " STMAC", " DB SYM", " END"]
      (.unknownSymbol ['S', 'Y', 'M']) = true := by
  decide +kernel

/-- A parameter's value is taken at the reference, a quoted one's in the expansion (R317). -/
theorem test_asm_parameter_time :
    assemblesTo ["MAC4 MACRO P1", "ABC SET 14", " DB P1", " ENDM", "ABC SET 3", " MAC4 ABC", " MAC4 'ABC'",
      " END"] [(0#16, 3#8), (1#16, 14#8)] = true := by
  decide +kernel

/-- A signed operand of `/` and a shift by 16 are refused (`93_implementation_defined.md` T20); 15 is a shift. -/
theorem test_asm_operators_refused :
    Asm.BinOp.apply .div 0xFFFA#16 2#16 = .error .unstated ∧ Asm.BinOp.apply .mod 7#16 0x8000#16 = .error .unstated ∧
      Asm.BinOp.apply .shl 1#16 16#16 = .error .unstated ∧ Asm.BinOp.apply .shl 1#16 15#16 = .ok 0x8000#16 ∧
      Asm.BinOp.apply .div 0x7FFF#16 2#16 = .ok 0x3FFF#16 :=
  ⟨rfl, rfl, rfl, rfl, rfl⟩

/-- A label before its line in DS (R283), a pseudo-instruction's label after data (R303), ignored statements that are no statements
(R308) and a control character in a string (R323). -/
theorem test_asm_forward_and_ignored :
    assemblesTo [" DS LATER-MID", "MID: NOP", "LATER: DB 7", "HERE: IF 0", " DB 0A", " ENDIF", " DB HERE, '\t'", " END"]
      [(1#16, 0x00#8), (2#16, 7#8), (3#16, 2#8), (4#16, 9#8)] = true := by
  decide +kernel

/-- Dummy parameters may be ASCII constants (R309), and text put for one is not looked through for the next (log 37). -/
theorem test_asm_dummy_parameters :
    assemblesTo ["Q MACRO 'P1', P2", " DB P1, P2", " ENDM", "P2 EQU 3", " Q 'P2', 5", " END"]
      [(0#16, 3#8), (1#16, 5#8)] = true := by
  decide +kernel

/-- The subroutine is generated once (R321), the label OUT, an operation code, renamed. -/
theorem test_asm_subroutine_once :
    assemblesTo ["FIRST SET 0FFH", "SBMAC MACRO", " CALL SUBR", " IF FIRST", "FIRST SET 0", " JMP OVER", "SUBR:: RET",
      "OVER: NOP", " ENDIF", " ENDM", " SBMAC", " SBMAC", " END"]
      [(0#16, 0xCD#8), (1#16, 6#8), (2#16, 0#8), (3#16, 0xC3#8), (4#16, 7#8), (5#16, 0#8), (6#16, 0xC9#8), (7#16, 0#8),
        (8#16, 0xCD#8), (9#16, 6#8), (10#16, 0#8)] = true := by
  decide +kernel

/-- What the assembler rejects (R324). -/
theorem test_asm_rejects_labels :
    rejectedWith ["123: NOP", " END"] .badLabel = true ∧
      rejectedWith ["ADD: NOP", " END"] (.reservedLabel ['A', 'D', 'D']) = true ∧
      rejectedWith ["T: NOP", "T: NOP", " END"] (.duplicate ['T']) = true := by
  decide +kernel

theorem test_asm_rejects_operands :
    rejectedWith [" MVI H,NOT 0", " END"] .outOfRange = true ∧
      rejectedWith [" PUSH C", " END"] .badOperand = true ∧
      rejectedWith [" MOV M,M", " END"] .movMM = true := by
  decide +kernel

/-! ## Interrupts and the ends of a run (V11) -/

/-- RST 1 accepted from STOPPED (R347, R345). -/
theorem test_accept_rst_from_stopped :
    acceptFrom 0xCF#8 { State.reset with pc := 0x0046#16, sp := 0x2400#16, inte := true, run := .stopped }
      (fun t => t.inte == false && t.run == .running && t.mem.read 0x23FF#16 == 0x00#8 && t.mem.read 0x23FE#16 == 0x46#8 &&
        t.sp == 0x23FE#16 && t.pc == 0x0008#16) = true := by
  decide

/-- A device supplies EI: INTE is reset, then set by the EI, and pc is not advanced (R345, R260). -/
theorem test_accept_ei :
    acceptFrom 0xFB#8 { State.reset with pc := 0x1234#16, inte := true } (fun t => t.inte == true && t.pc == 0x1234#16) =
      true := by
  decide

/-- A request with INTE = 0 is ignored and not remembered: the NOP executes (R341, R342). -/
theorem test_request_ignored :
    stepFrom 0x0100#16 [0x00#8] { State.reset with irq := [some 0xC7#8] }
      (fun t => t.pc == 0x0101#16 && t.inte == false && t.irqNow == none) = true := by
  decide

/-- A device supplies a three-byte instruction: refused (R346). -/
theorem test_device_call_refused :
    step { State.reset with pc := 0x1234#16, inte := true, irq := [some 0xCD#8] } =
      .refused (.deviceInstruction 0xCD#8) := rfl

/-- STOPPED with INTE = 0 has no successor (R352). -/
theorem test_final_state : step { State.reset with run := .stopped } = .fault .stoppedForGood := rfl

/-- An IN past the schedule reads the environment's free byte: the step completes (R263). -/
theorem test_in_past_schedule :
    stepFrom 0x0200#16 [0xDB#8, 0x05#8] State.reset (fun t => t.inCount == 1 && t.pc == 0x0202#16) = true := by
  decide

/-- A store to read-only memory does nothing (R45). -/
theorem test_store_read_only :
    stepFrom 0x0100#16 [0x32#8, 0x00#8, 0x30#8]
      { State.reset with memMap := [⟨0x3000#16, 0x3FFF#16, .ro⟩], mem := [(0x3000, 0x11#8)],
                         regs := { Regs.reset with a := 0x22#8 } }
      (fun t => t.mem.read 0x3000#16 == 0x11#8 && t.pc == 0x0103#16) = true := by
  decide

/-- A load from an ABSENT address takes one free value (R41, R44). -/
theorem test_load_absent :
    stepFrom 0x0100#16 [0x3A#8, 0x00#8, 0x30#8] { State.reset with memMap := [⟨0x3000#16, 0x3FFF#16, .absent⟩] }
      (fun t => t.absentReads == 1 && t.pc == 0x0103#16) = true := by
  decide

/-- The loaded word is what the next step runs, where `pc` stands in absent memory and the machine is STOPPED. -/
theorem test_with_fetch_word :
    (match step (State.withFetchWord
        { State.reset with run := .stopped, memMap := [⟨0x0000#16, 0xFFFF#16, .absent⟩] } 16 0x7F3E) with
      | .next t => t.regs.a == 0x7F#8 && t.pc == 0x0002#16 && t.absentReads == 0
      | _ => false) = true := by
  decide

/-- Appendix B's two figures of a conditional call (R380). -/
theorem test_time_periods :
    (Instr.cz 0x3C00#16).timePeriods { Flags.reset with z := true } = some 17 ∧
      (Instr.cz 0x3C00#16).timePeriods Flags.reset = some 11 := by
  decide

/-! ## Witnesses: states and operands that meet the hypotheses of the statements that have some -/

/-- A machine about to run the bytes at 0100H, with a stack at 2400H. -/
def about (bytes : List Byte) : State :=
  { State.reset with pc := 0x0100#16, sp := 0x2400#16, mem := Memory.load [] 0x0100#16 bytes }

theorem test_witness_DecodeInvertsEncode :
    (Instr.mov .m .a).wellFormed = true ∧ (Instr.lxi .sp 0xFFFF#16).wellFormed = true ∧
      (Instr.rst 7#3).wellFormed = true := by
  decide

theorem test_witness_EncodeInvertsDecode :
    decode [0x2A#8, 0xC0#8, 0x40#8, 0xE9#8] = .ok (.lhld 0x40C0#16, [0xE9#8]) := by rfl

theorem test_witness_StepRunsDecodedInstruction :
    (about [0x3E#8, 0x14#8, 0x76#8]).run = .running ∧ (about [0x3E#8, 0x14#8, 0x76#8]).irqNow = none ∧
      (∀ adr ∈ (about [0x3E#8, 0x14#8, 0x76#8]).fetchedBytes, (about [0x3E#8, 0x14#8, 0x76#8]).kind adr ≠ .absent) ∧
      (about [0x3E#8, 0x14#8, 0x76#8]).mem.read 0x0100#16 = 0x3E#8 ∧
      (about [0x3E#8, 0x14#8, 0x76#8]).mem.read 0x0101#16 = 0x14#8 ∧
      (about [0x3E#8, 0x14#8, 0x76#8]).mem.read 0x0102#16 = 0x76#8 ∧
      decode [0x3E#8, 0x14#8, 0x76#8] = .ok (.mvi .a 0x14#8, [0x76#8]) :=
  ⟨by decide, by decide, fun _ _ => (by decide : MemKind.rw ≠ .absent), by decide, by decide, by decide, rfl⟩

theorem test_witness_StepRunsDecodedInstruction_request :
    { about [0x00#8] with irq := [some 0xC7#8] }.irqNow ≠ none ∧ { about [0x00#8] with irq := [some 0xC7#8] }.inte = false := by
  decide

theorem test_witness_DecimalAddition :
    (0x99#8).toNat / 16 < 10 ∧ (0x99#8).toNat % 16 < 10 ∧
      ({ State.reset with regs := { Regs.reset with a := 0x99#8, b := 0x29#8 } }.operand .b).toNat % 16 < 10 := by
  decide

theorem test_witness_MoveOperand : ¬ (R8.h = .m ∧ R8.m = R8.m) ∧ ¬ (R8.m = .m ∧ R8.l = .m) := by decide

theorem test_witness_PopUndoesPush :
    (about []).kind ((about []).sp - 1#16) = .rw ∧ (about []).kind ((about []).sp - 2#16) = .rw := by
  decide

theorem test_witness_ReturnUndoesCall :
    { about [] with sp := 0x0001#16 }.kind (0x0001#16 - 1#16) = .rw ∧
      { about [] with sp := 0x0001#16 }.kind (0x0001#16 - 2#16) = .rw := by
  decide

theorem test_witness_ConditionBitsTable :
    (∃ t, exec (.ani 0x0F#8) (about []) = .next t) ∧ (∃ t, exec (.ana .m) (about []) = .next t) ∧
      ∃ t, exec .daa { about [] with flags := ⟨true, true, false, false, false⟩ } = .next t :=
  ⟨⟨_, rfl⟩, ⟨_, rfl⟩, ⟨_, rfl⟩⟩

theorem test_witness_RegistersUntouched : ∃ t, exec (.inr .c) (about []) = .next t ∧ Reg.a ∉ (Instr.inr .c).regsWritten :=
  ⟨_, rfl, by decide⟩

theorem test_witness_MemoryUntouched :
    ∃ t, exec (.shld 0xFFFF#16) (about []) = .next t ∧ 0x0001#16 ∉ (Instr.shld 0xFFFF#16).storedBytes (about []) :=
  ⟨_, rfl, by decide⟩

theorem test_witness_PointersUntouched :
    (∃ t, exec (.cz 0x3C00#16) (about []) = .next t) ∧ (Instr.cz 0x3C00#16).spWritten (about []).flags = false ∧
      ((Instr.cz 0x3C00#16).transfers && (Instr.cz 0x3C00#16).taken (about []).flags) = false ∧
      (∃ t, exec (.push .b) (about []) = .next t) ∧ (Instr.push .b).setsSp = false :=
  ⟨⟨_, rfl⟩, by decide, by decide, ⟨_, rfl⟩, by decide⟩

theorem test_witness_ControlUntouched : ∃ t, exec .nop (about []) = .next t ∧ Instr.nop ≠ .ei ∧ Instr.nop ≠ .hlt :=
  ⟨_, rfl, by decide, by decide⟩

theorem test_witness_StepKeepsMemoryForm : (about [0x77#8]).mem.wf ∧ ∃ t, step (about [0x77#8]) = .next t :=
  ⟨by decide, _, rfl⟩

theorem test_witness_StepKeepsUnwritableMemory :
    (∃ t, step { about [0x77#8] with memMap := [⟨0x0000#16, 0x00FF#16, .ro⟩] } = .next t) ∧
      { about [0x77#8] with memMap := [⟨0x0000#16, 0x00FF#16, .ro⟩] }.kind 0x0000#16 ≠ .rw :=
  ⟨⟨_, rfl⟩, by decide⟩

theorem test_witness_InteWrittenOnlyByThree :
    (∃ t, step (about [0xFB#8]) = .next t ∧ (about [0xFB#8]).inte = false ∧ t.inte = true) ∧
      (∃ t, step { about [0xF3#8] with inte := true } = .next t ∧ t.inte = false) ∧
      ∃ t, step { about [] with inte := true, irq := [some 0xC7#8] } = .next t ∧ t.inte = false :=
  ⟨⟨_, rfl, rfl, rfl⟩, ⟨_, rfl, rfl⟩, ⟨_, rfl, rfl⟩⟩

theorem test_witness_StoppedLeftOnlyByAcceptance :
    (∃ t, step { about [] with inte := true, run := .stopped, irq := [some 0xC7#8] } = .next t ∧ t.run = .running) ∧
      ∃ t, step (about [0x76#8]) = .next t ∧ t.run = .stopped :=
  ⟨⟨_, rfl, rfl⟩, ⟨_, rfl, rfl⟩⟩

theorem test_witness_StoppedMachine :
    ({ about [] with inte := true, run := .stopped }.irqNow = none) ∧
      ({ about [] with inte := true, run := .stopped, irq := [some 0x00#8] }.irqNow = some 0x00#8 ∧ admitted 0x00#8 = true) ∧
      { about [] with run := .stopped }.inte = false := by
  decide

theorem test_witness_RefusalsAreNamed :
    (∃ r, step (about [0x08#8]) = .refused r) ∧
      (∃ r, step { about [] with inte := true, irq := [some 0x08#8] } = .refused r) ∧
      ((about [0x76#8]).run = .running ∧ (about [0x76#8]).inte = false ∧ (about [0x76#8]).executes = some .hlt ∧
        Instr.hlt.assigned = true) ∧
      ({ about [] with inte := true, irq := [some 0xFB#8] }.irqNow = some 0xFB#8 ∧ admitted 0xFB#8 = true ∧
        { about [] with inte := true, irq := [some 0xFB#8] }.executes = some .ei ∧ Instr.ei.assigned = true) :=
  ⟨⟨_, rfl⟩, ⟨_, rfl⟩, ⟨rfl, rfl, rfl, rfl⟩, rfl, rfl, rfl, rfl⟩

theorem test_witness_AcceptRestart :
    { about [] with inte := true, irq := [some 0xFF#8] }.irqNow = some (0b11#2 ++ 7#3 ++ 0b111#3) ∧
      { about [] with inte := true, irq := [some 0xC7#8] }.irqNow = some (0b11#2 ++ 0#3 ++ 0b111#3) := by
  decide

theorem test_witness_ReturnFromInterrupt :
    { about [] with inte := true, irq := [some 0xFF#8] }.irqNow = some (0b11#2 ++ 7#3 ++ 0b111#3) ∧
      (about []).kind ((about []).sp - 1#16) = .rw ∧ (about []).kind ((about []).sp - 2#16) = .rw := by
  decide

theorem test_witness_RequestsAccepted :
    ({ about [] with irq := [some 0xC7#8] }.run = .running ∧ { about [] with irq := [some 0xC7#8] }.inte = false) ∧
      ({ about [] with inte := true, irq := [some 0x3C#8] }.irqNow = some 0x3C#8 ∧
        (encode (decodeBytes 0x3C#8 0#8 0#8)).length = 1 ∧ (decodeBytes 0x3C#8 0#8 0#8).assigned = true) ∧
      (encode (decodeBytes 0xCD#8 0#8 0#8)).length ≠ 1 ∧ (encode (decodeBytes 0xDB#8 0#8 0#8)).length ≠ 1 ∧
      (decodeBytes 0x08#8 0#8 0#8).assigned = false := by
  decide

theorem test_witness_OutputTraceGrows :
    ∃ t, step (about [0xD3#8, 0x1F#8]) = .next t ∧ t.outTrace = [(0x1F#8, 0x00#8)] :=
  ⟨_, rfl, rfl⟩

theorem test_witness_StepPassesOneBoundary :
    (∃ t, step (about [0x00#8]) = .next t) ∧ ∃ t, step { about [] with inte := true, run := .stopped } = .next t :=
  ⟨⟨_, rfl⟩, ⟨_, rfl⟩⟩

/-- A request for RST 0 and a RET at 0000H: the interrupt is handled (`70_reset_and_hazards.md` R383, `60_exceptions.md` R350). -/
theorem test_handled_by_ret (needs : Needs) (h : ∀ adr, needs.bytes adr → adr = 0x0000#16) :
    { about [] with inte := true, irq := [some 0xC7#8], mem := [(0, 0xC9#8)] }.handled needs := by
  refine ⟨2, _, by decide, rfl, ⟨rfl, rfl⟩, ⟨fun r _ => by cases r <;> rfl, fun f _ => by cases f <;> rfl, ?_⟩, ?_⟩
  · intro adr hadr
    rw [h adr hadr]
    rfl
  · intro j v h0 h2 hv
    obtain rfl : j = 1 := by omega
    cases hv
    rintro ⟨-, hsp⟩
    exact absurd hsp (by decide)


end Sys2Proof.Tests
end

/-! PROOFS of the family `10_state.md`: what a fetch and a step do, and what no instruction touches.

The first part is a layer about the model's shared operations: data reads as `State.afterLoads`, the fields a stack
operation or a transfer of control leaves. The statements follow, each by cases on the instruction. -/

namespace Sys2Proof.Machine

/-! ## Data reads, as the bytes they give and the free values they take (`20_memory.md` R41, R44) -/

section Reads

variable (s : State)

/-- Two runs of reads are one run of reads. -/
theorem State.afterLoads_afterLoads (as bs : List Word) : (s.afterLoads as).afterLoads bs = s.afterLoads (as ++ bs) := by
  have hcount : s.absentAmong (as ++ bs) = s.absentAmong as + s.absentAmong bs := List.countP_append
  change { s with absentReads := s.absentReads + s.absentAmong as + s.absentAmong bs } = _
  rw [State.afterLoads, hcount, Nat.add_assoc]

/-- One read takes a free value where there is no memory. -/
theorem State.afterRead_eq_afterLoads (adr : Word) : s.afterRead adr = s.afterLoads [adr] := by
  simp [State.afterRead_eq, State.afterLoads, State.absentAmong, List.countP_cons]

/-- Two reads, in order, as one run. -/
theorem State.afterRead_afterRead (x y : Word) : (s.afterRead x).afterRead y = s.afterLoads [x, y] := by
  rw [State.afterRead_eq_afterLoads, State.afterRead_eq_afterLoads, State.afterLoads_afterLoads]
  rfl

/-- Reading an operand reads the bytes it stands for. -/
theorem State.afterOperand_eq_afterLoads (r : R8) : s.afterOperand r = s.afterLoads (r.bytes s) := by
  cases r with
  | m => exact s.afterRead_eq_afterLoads s.hl
  | b | c | d | e | h | l | a => rfl

/-- What a read gives now, in the statements' words. -/
theorem State.peek_eq_byteAt (adr : Word) : s.peek adr = s.byteAt adr := by
  by_cases h : s.kind adr = .absent
  · simp [State.peek_of_absent h, State.byteAt, State.dataByte, h]
  · simp [State.peek_of_present h, State.byteAt, State.dataByte, h]

/-- What a read gives after other reads: they count only for the number of the next free value. -/
theorem State.byteAt_afterLoads (as : List Word) (adr : Word) :
    (s.afterLoads as).byteAt adr = s.dataByte (s.absentReads + s.absentAmong as) adr := rfl

end Reads

/-! ## The fields the operations leave -/

section Frames

variable (s : State)

/-- An 8-bit result goes to a register or to memory (`30_encoding.md` R72). -/
theorem State.writeR8_frame (r : R8) (v : Byte) :
    s.writeR8 r v = { s with regs := (s.writeR8 r v).regs, mem := (s.writeR8 r v).mem } := by
  cases r with
  | m => simp [State.writeR8, State.writeByte_eq]
  | b | c | d | e | h | l | a => rfl

/-- A store leaves everything but memory (`20_memory.md` R45). -/
theorem State.writeByte_frame (adr : Word) (v : Byte) :
    s.writeByte adr v = { s with mem := (s.writeByte adr v).mem } := by
  simp [State.writeByte_eq]

/-- A 16-bit store leaves everything but memory. -/
theorem State.writeWord_frame (adr v : Word) : s.writeWord adr v = { s with mem := (s.writeWord adr v).mem } :=
  (s.writeWord_spec adr v).2

/-- A push leaves everything but memory and SP (`20_memory.md` R50). -/
theorem State.pushBytes_frame (x y : Byte) :
    s.pushBytes x y = { s with sp := s.sp - 2#16, mem := (s.pushBytes x y).mem } :=
  (s.pushBytes_spec x y).2.2

/-- A call leaves everything but memory, SP and `pc` (`47_jump_call_return_rst.md` R220). -/
theorem State.callOp_frame (target : Word) :
    s.callOp target = { s with sp := s.sp - 2#16, pc := target, mem := (s.callOp target).mem } := by
  rw [State.callOp_spec]

/-- A return takes `pc` from the two bytes at SP and leaves everything else but SP (`47_jump_call_return_rst.md` R230). -/
theorem State.retOp_eq_afterLoads :
    s.retOp = { s.afterLoads [s.sp, s.sp + 1#16] with pc := s.pop16.1, sp := s.sp + 2#16 } := by
  rw [← State.afterRead_afterRead]
  rfl

/-- A conditional jump: only `pc`, and only where the condition holds (R212 to R219). -/
theorem State.jumpIf_eq (cnd : Cond) (target : Word) :
    s.jumpIf cnd target = { s with pc := if s.flags.holds cnd then target else s.pc } := by
  unfold State.jumpIf
  split <;> rfl

/-- A conditional call: the call where the condition holds, nothing elsewhere (R222 to R229). -/
theorem State.callIf_frame (cnd : Cond) (target : Word) :
    s.callIf cnd target = { s with
      sp := if s.flags.holds cnd then s.sp - 2#16 else s.sp,
      pc := if s.flags.holds cnd then target else s.pc,
      mem := (s.callIf cnd target).mem } := by
  unfold State.callIf
  split
  · exact s.callOp_frame target
  · rfl

/-- A conditional return: the return where the condition holds, nothing elsewhere (R232 to R239). -/
theorem State.retIf_eq_afterLoads (cnd : Cond) :
    s.retIf cnd = { s.afterLoads (if s.flags.holds cnd then [s.sp, s.sp + 1#16] else []) with
      sp := if s.flags.holds cnd then s.sp + 2#16 else s.sp,
      pc := if s.flags.holds cnd then s.pop16.1 else s.pc } := by
  unfold State.retIf
  split
  · exact s.retOp_eq_afterLoads
  · rfl

/-! One lemma per field, for `simp`. -/

@[simp] theorem State.writeWord_regs (adr v : Word) : (s.writeWord adr v).regs = s.regs := by
  rw [State.writeWord_frame]
@[simp] theorem State.writeWord_flags (adr v : Word) : (s.writeWord adr v).flags = s.flags := by
  rw [State.writeWord_frame]
@[simp] theorem State.writeWord_sp (adr v : Word) : (s.writeWord adr v).sp = s.sp := by
  rw [State.writeWord_frame]
@[simp] theorem State.writeWord_pc (adr v : Word) : (s.writeWord adr v).pc = s.pc := by
  rw [State.writeWord_frame]

@[simp] theorem State.pushBytes_regs (x y : Byte) : (s.pushBytes x y).regs = s.regs := by
  rw [State.pushBytes_frame]
@[simp] theorem State.pushBytes_flags (x y : Byte) : (s.pushBytes x y).flags = s.flags := by
  rw [State.pushBytes_frame]
@[simp] theorem State.pushBytes_pc (x y : Byte) : (s.pushBytes x y).pc = s.pc := by
  rw [State.pushBytes_frame]

@[simp] theorem State.callOp_regs (target : Word) : (s.callOp target).regs = s.regs := by
  rw [State.callOp_frame]
@[simp] theorem State.callOp_flags (target : Word) : (s.callOp target).flags = s.flags := by
  rw [State.callOp_frame]

@[simp] theorem State.retOp_regs : s.retOp.regs = s.regs := by
  rw [State.retOp_eq_afterLoads]
  rfl
@[simp] theorem State.retOp_flags : s.retOp.flags = s.flags := by
  rw [State.retOp_eq_afterLoads]
  rfl

@[simp] theorem State.jumpIf_regs (cnd : Cond) (target : Word) : (s.jumpIf cnd target).regs = s.regs := by
  rw [State.jumpIf_eq]
@[simp] theorem State.jumpIf_flags (cnd : Cond) (target : Word) : (s.jumpIf cnd target).flags = s.flags := by
  rw [State.jumpIf_eq]
@[simp] theorem State.jumpIf_sp (cnd : Cond) (target : Word) : (s.jumpIf cnd target).sp = s.sp := by
  rw [State.jumpIf_eq]

@[simp] theorem State.callIf_regs (cnd : Cond) (target : Word) : (s.callIf cnd target).regs = s.regs := by
  rw [State.callIf_frame]
@[simp] theorem State.callIf_flags (cnd : Cond) (target : Word) : (s.callIf cnd target).flags = s.flags := by
  rw [State.callIf_frame]
@[simp] theorem State.callIf_sp (cnd : Cond) (target : Word) :
    (s.callIf cnd target).sp = if s.flags.holds cnd then s.sp - 2#16 else s.sp := by
  rw [State.callIf_frame]

@[simp] theorem State.retIf_regs (cnd : Cond) : (s.retIf cnd).regs = s.regs := by
  rw [State.retIf_eq_afterLoads]
  rfl
@[simp] theorem State.retIf_flags (cnd : Cond) : (s.retIf cnd).flags = s.flags := by
  rw [State.retIf_eq_afterLoads]
  rfl
@[simp] theorem State.retIf_sp (cnd : Cond) :
    (s.retIf cnd).sp = if s.flags.holds cnd then s.sp + 2#16 else s.sp := by
  rw [State.retIf_eq_afterLoads]

/-! A transfer whose condition fails leaves `pc`. -/

theorem State.jumpIf_pc_of_not {s : State} {cnd : Cond} {target : Word} (h : s.flags.holds cnd = false) :
    (s.jumpIf cnd target).pc = s.pc := by
  simp [State.jumpIf, h]

theorem State.callIf_pc_of_not {s : State} {cnd : Cond} {target : Word} (h : s.flags.holds cnd = false) :
    (s.callIf cnd target).pc = s.pc := by
  simp [State.callIf, h]

theorem State.retIf_pc_of_not {s : State} {cnd : Cond} (h : s.flags.holds cnd = false) : (s.retIf cnd).pc = s.pc := by
  simp [State.retIf, h]

end Frames

/-! ## Two instructions whose meaning branches -/

/-- Where MOV answers a next state, it is the source's value written to the destination (`41_data_transfer.md` R120). -/
theorem exec_mov_next {dst src : R8} {s t : State} (h : exec (.mov dst src) s = .next t) :
    t = (s.afterOperand src).writeR8 dst (s.operand src) := by
  change execMov dst src s = .next t at h
  unfold execMov at h
  split at h
  · cases h
  · cases h
    rfl

/-- DAA writes A and the condition bits (`40_carry_single_register_nop.md` R105). -/
theorem exec_daa_next {s t : State} (h : exec .daa s = .next t) :
    t = (s.setA (daa s.regs.a s.flags).1).setFlags (daa s.regs.a s.flags).2 :=
  (Host.Outcome.next.inj h).symm

/-- DAA never resets CY (`10_state.md` R33). -/
theorem daa_keeps_cy {f : Flags} (h : f.cy = true) (a : Byte) : (daa a f).2.cy = true := by
  have hstep1 : (daaStep1 a f).2.cy = true := by
    unfold daaStep1
    split <;> simp [h]
  change (daaStep2 (daaStep1 a f).1 (daaStep1 a f).2).2.cy = true
  unfold daaStep2
  split <;> simp [hstep1]

/-- DAA never resets AC (`10_state.md` R33). -/
theorem daa_keeps_ac {f : Flags} (h : f.ac = true) (a : Byte) : (daa a f).2.ac = true := by
  have hstep1 : (daaStep1 a f).2.ac = true := by
    unfold daaStep1
    split <;> simp [h]
  change (daaStep2 (daaStep1 a f).1 (daaStep1 a f).2).2.ac = true
  unfold daaStep2
  split <;> simp [hstep1]

/-! ## The fetch -/

/-- Three bytes always hold an instruction: the first byte says how many of the others take part (`30_encoding.md` R70,
R71). -/
theorem decode_three_bytes (op b2 b3 : Byte) :
    decode [op, b2, b3] =
      .ok (decodeBytes op (if 2 ≤ instrLength op then b2 else 0#8) (if 3 ≤ instrLength op then b3 else 0#8),
        [b2, b3].drop (instrLength op - 1)) := by
  rcases instrLength_cases op with h | h | h <;> simp [decode, h]

/-- A fetch, whole: the bytes it reads, ABSENT ones free values, and the state it leaves (`10_state.md` R15,
`20_memory.md` R41, R44). -/
theorem fetch_eq (s : State) :
    fetch s =
      (decodeBytes (s.byteAt s.pc)
          (if 2 ≤ instrLength (s.byteAt s.pc) then
            s.dataByte (s.absentReads + s.absentAmong [s.pc]) (s.pc + 1#16) else 0#8)
          (if 3 ≤ instrLength (s.byteAt s.pc) then
            s.dataByte (s.absentReads + s.absentAmong [s.pc, s.pc + 1#16]) (s.pc + 2#16) else 0#8),
        { s.afterLoads s.fetchedBytes with pc := s.pc + BitVec.ofNat 16 s.fetchedBytes.length }) := by
  rcases instrLength_cases (s.byteAt s.pc) with h | h | h <;>
    simp [fetch, State.readByte, State.fetchedBytes, State.afterRead_eq_afterLoads, State.afterLoads_afterLoads,
      State.byteAt_afterLoads, State.peek_eq_byteAt, h]

/-! ## The length of an encoding -/

/-- The second and third bytes do not take part in the length of what is decoded (`30_encoding.md` R92). -/
theorem encode_decodeBytes_length_congr (op b2 b3 : Byte) :
    (encode (decodeBytes op b2 b3)).length = (encode (decodeBytes op 0#8 0#8)).length := by
  have quadrant00 : (encode (decodeQuadrant00 op b2 b3)).length = (encode (decodeQuadrant00 op 0#8 0#8)).length := by
    unfold decodeQuadrant00
    dsimp only
    split
    case h_5 | h_6 | h_7 => rfl
    all_goals split <;> rfl
  have quadrant11 : (encode (decodeQuadrant11 op b2 b3)).length = (encode (decodeQuadrant11 op 0#8 0#8)).length := by
    unfold decodeQuadrant11
    dsimp only
    split
    case h_8 => rfl
    all_goals split <;> rfl
  unfold decodeBytes
  split
  · exact quadrant00
  · rfl
  · rfl
  · exact quadrant11

/-- What is decoded has as many bytes as its first byte fixes (`30_encoding.md` R71). -/
theorem encode_decodeBytes_length (op b2 b3 : Byte) : (encode (decodeBytes op b2 b3)).length = instrLength op := by
  have without_operands : ∀ op : Byte, (encode (decodeBytes op 0#8 0#8)).length = instrLength op := by decide
  rw [encode_decodeBytes_length_congr, without_operands]

/-- Settles O7: the fetch equation, with the decoding of its three bytes. -/
theorem fetchReadsItsBytes : Obligations.FetchReadsItsBytes := by
  intro s after
  rw [fetch_eq s]
  exact ⟨⟨_, decode_three_bytes _ _ _⟩, rfl⟩

/-- Settles O6: the step is the fetch and `exec`, and the fetch of bytes that are there is the decoded instruction. -/
theorem stepRunsDecodedInstruction : Obligations.StepRunsDecodedInstruction := by
  intro s i rest hrun hirq hpresent hdecode
  have hpresent' : ∀ adr ∈ s.nextBoundary.fetchedBytes, s.nextBoundary.kind adr ≠ .absent := hpresent
  rw [decode_three_bytes] at hdecode
  obtain ⟨rfl, -⟩ := Prod.mk.inj (Except.ok.inj hdecode)
  rw [encode_decodeBytes_length, step_running hrun hirq, fetchAndExecute, fetch_of_present hpresent']
  rfl

/-- Settles O60: the reset state, field by field. -/
theorem resetState : Obligations.ResetState := by
  refine ⟨rfl, rfl, rfl, rfl, rfl, rfl, rfl, rfl, ?_, ?_, fun _ => rfl⟩
  · intro r
    cases r <;> rfl
  · intro f
    cases f <;> rfl

/-! ## The working registers (`10_state.md` R11) -/

section Registers

variable {s t : State}

theorem sameRegsBut_of_regs_eq (written : List Reg) (h : t.regs = s.regs) : sameRegsBut written s t := by
  intro r _
  rw [h]

/-- Only A was replaced. -/
theorem sameRegsBut_a (h : t.regs = { s.regs with a := t.regs.a }) : sameRegsBut [.a] s t := by
  intro r hr
  rw [h]
  cases r with
  | a => exact absurd (List.mem_singleton_self _) hr
  | b | c | d | e | h | l => rfl

/-- An 8-bit result goes to the register its operand names, or to memory. -/
theorem sameRegsBut_writeR8 (u : State) (hu : u.regs = s.regs) (r : R8) (v : Byte) :
    sameRegsBut r.written s (u.writeR8 r v) := by
  intro x hx
  rw [← hu]
  cases r with
  | m => simp [State.writeR8]
  | b | c | d | e | h | l | a => cases x <;> simp_all [State.writeR8, R8.written, Regs.get]

theorem Regs.get_of_bc (r : Regs) (x y : Byte) {n : Reg} (hn : n ∉ [Reg.b, .c]) :
    { r with b := x, c := y }.get n = r.get n := by
  cases n with
  | b | c => exact absurd (by decide) hn
  | d | e | h | l | a => rfl

theorem Regs.get_of_de (r : Regs) (x y : Byte) {n : Reg} (hn : n ∉ [Reg.d, .e]) :
    { r with d := x, e := y }.get n = r.get n := by
  cases n with
  | d | e => exact absurd (by decide) hn
  | b | c | h | l | a => rfl

theorem Regs.get_of_hl (r : Regs) (x y : Byte) {n : Reg} (hn : n ∉ [Reg.h, .l]) :
    { r with h := x, l := y }.get n = r.get n := by
  cases n with
  | h | l => exact absurd (by decide) hn
  | b | c | d | e | a => rfl

/-- A pair's value goes to the pair's registers. -/
theorem sameRegsBut_setPair (u : State) (hu : u.regs = s.regs) (q : RegPair) (v : Word) :
    sameRegsBut q.regs s (u.setPair q v) := by
  intro n hn
  rw [← hu]
  cases q with
  | b => exact Regs.get_of_bc _ _ _ hn
  | d => exact Regs.get_of_de _ _ _ hn
  | h => exact Regs.get_of_hl _ _ _ hn
  | sp => rfl

/-- What POP loads goes to the registers of its pair, for PSW to A alone (`10_state.md` R13). -/
theorem sameRegsBut_setStackPair (u : State) (hu : u.regs = s.regs) (q : StackPair) (x y : Byte) :
    sameRegsBut q.regs s (u.setStackPair q x y) := by
  intro n hn
  rw [← hu]
  cases q with
  | b => exact Regs.get_of_bc _ _ _ hn
  | d => exact Regs.get_of_de _ _ _ hn
  | h => exact Regs.get_of_hl _ _ _ hn
  | psw => exact sameRegsBut_a (s := u) (t := u.setStackPair .psw x y) rfl n hn

end Registers

/-- Settles O43: the instructions grouped by what they write: an 8-bit operand, A, a pair, or no register. -/
theorem registersUntouched : Obligations.RegistersUntouched := by
  intro i s t h
  cases i with
  | mov dst src =>
    rw [exec_mov_next h]
    exact sameRegsBut_writeR8 _ (by simp) dst _
  | inr r | dcr r | mvi r _ =>
    cases h
    exact sameRegsBut_writeR8 _ (by simp) r _
  | daa =>
    rw [exec_daa_next h]
    exact sameRegsBut_a rfl
  | add _ | adc _ | sub _ | sbb _ | ana _ | xra _ | ora _ | adi _ | aci _ | sui _ | sbi _ | ani _ | xri _ | ori _ | cma
  | rlc | rrc | ral | rar | ldax _ | lda _ | inp _ =>
    cases h
    exact sameRegsBut_a (by simp)
  | pop q =>
    cases h
    exact sameRegsBut_setStackPair _ (by simp) q _ _
  | inx q | dcx q | lxi q _ =>
    cases h
    exact sameRegsBut_setPair _ rfl q _
  | dad _ | xthl | lhld _ =>
    cases h
    exact sameRegsBut_setPair _ (by simp) .h _
  | xchg =>
    cases h
    intro r hr
    cases r with
    | d | e | h | l => exact absurd (by decide) hr
    | b | c | a => rfl
  | unassigned08 | unassigned10 | unassigned18 | unassigned20 | unassigned28 | unassigned30 | unassigned38 | unassignedCB
  | unassignedD9 | unassignedDD | unassignedED | unassignedFD => cases h
  | _ =>
    cases h
    exact sameRegsBut_of_regs_eq _ (by simp)

/-! ## The condition bits (`10_state.md` R33) -/

section ConditionBits

variable {s t : State}

theorem sameFlagsBut_of_flags_eq (written : List Flag) (h : t.flags = s.flags) : sameFlagsBut written s t := by
  intro f _
  rw [h]

/-- A row that names all five bits says nothing of what is left. -/
theorem sameFlagsBut_all : sameFlagsBut [.cy, .ac, .s, .z, .p] s t := by
  intro f hf
  cases f <;> exact absurd (by decide) hf

/-- Only CY was replaced. -/
theorem sameFlagsBut_cy (h : t.flags = { s.flags with cy := t.flags.cy }) : sameFlagsBut [.cy] s t := by
  intro f hf
  rw [h]
  cases f with
  | cy => exact absurd (List.mem_singleton_self _) hf
  | ac | s | z | p => rfl

/-- INR and DCR leave CY. -/
theorem sameFlagsBut_of_cy_eq (h : t.flags.cy = s.flags.cy) : sameFlagsBut [.ac, .s, .z, .p] s t := by
  intro f hf
  cases f with
  | cy => exact h
  | ac | s | z | p => exact absurd (by decide) hf

/-- The logical instructions leave AC. -/
theorem sameFlagsBut_of_ac_eq (h : t.flags.ac = s.flags.ac) : sameFlagsBut [.cy, .s, .z, .p] s t := by
  intro f hf
  cases f with
  | ac => exact h
  | cy | s | z | p => exact absurd (by decide) hf

end ConditionBits

/-- Every instruction leaves the condition bits its row does not name. -/
theorem exec_sameFlagsBut {i : Instr} {s t : State} (h : exec i s = .next t) : sameFlagsBut i.flagsWritten s t := by
  cases i with
  | mov dst src =>
    rw [exec_mov_next h]
    exact sameFlagsBut_of_flags_eq _ (by simp)
  | inr r | dcr r =>
    cases h
    exact sameFlagsBut_of_cy_eq (by simp [Flags.setZSP])
  | add _ | adc _ | sub _ | sbb _ | cmp _ | adi _ | aci _ | sui _ | sbi _ | cpi _ | daa => exact sameFlagsBut_all
  | ana _ | xra _ | ora _ | ani _ | xri _ | ori _ =>
    cases h
    exact sameFlagsBut_of_ac_eq (by simp [Flags.logical, Flags.setZSP])
  | stc | cmc | rlc | rrc | ral | rar | dad _ =>
    cases h
    exact sameFlagsBut_cy (by simp)
  | pop q =>
    cases h
    cases q with
    | psw => exact sameFlagsBut_all
    | b | d | h => exact sameFlagsBut_of_flags_eq _ (by simp [State.setStackPair])
  | unassigned08 | unassigned10 | unassigned18 | unassigned20 | unassigned28 | unassigned30 | unassigned38 | unassignedCB
  | unassignedD9 | unassignedDD | unassignedED | unassignedFD => cases h
  | _ =>
    cases h
    exact sameFlagsBut_of_flags_eq _ (by simp)

/-- Settles O42: the rows of the table, then the logical instructions and DAA by what they write. -/
theorem conditionBitsTable : Obligations.ConditionBitsTable := by
  intro i s t h
  refine ⟨exec_sameFlagsBut h, ?_, ?_⟩
  · rintro (⟨r, rfl | rfl | rfl⟩ | ⟨d, rfl | rfl | rfl⟩) <;> cases h <;> rfl
  · rintro rfl
    rw [exec_daa_next h]
    exact ⟨fun hcy => daa_keeps_cy hcy _, fun hac => daa_keeps_ac hac _⟩

/-! ## The stack pointer and the program counter (`10_state.md` R14, R18) -/

/-- An instruction that uses the stack, but for XTHL, writes SP where its condition holds. -/
theorem spWritten_eq_taken {i : Instr} (f : Flags) (hsets : i.setsSp = false) (huses : i.usesStack = true)
    (hne : i ≠ .xthl) : i.spWritten f = i.taken f := by
  simp [Instr.spWritten, Instr.stackOperation, hsets, huses, hne]

/-- SP changes only by an instruction that names it or uses the stack, and then by two unless it is named. -/
def movesSp (i : Instr) (s t : State) : Prop :=
  (i.spWritten s.flags = false → t.sp = s.sp) ∧
    (i.setsSp = false → t.sp = s.sp ∨ t.sp = s.sp - 2#16 ∨ t.sp = s.sp + 2#16)

section StackPointer

variable {i : Instr} {s t : State}

theorem movesSp_of_sp_eq (h : t.sp = s.sp) : movesSp i s t := ⟨fun _ => h, fun _ => .inl h⟩

/-- The instruction names SP. -/
theorem movesSp_of_setsSp (h : i.setsSp = true) : movesSp i s t := by
  constructor <;> intro hn <;> simp_all [Instr.spWritten]

/-- A push or a pop, where the instruction's condition holds. -/
theorem movesSp_of_taken {w : Word} (hw : w = s.sp - 2#16 ∨ w = s.sp + 2#16)
    (hwritten : i.spWritten s.flags = i.taken s.flags) (h : t.sp = if i.taken s.flags then w else s.sp) :
    movesSp i s t := by
  unfold movesSp
  rw [hwritten, h]
  split <;> simp_all

end StackPointer

/-- Every instruction, by what it does to SP: nothing, a value of its own, a push or a pop. -/
theorem exec_movesSp {i : Instr} {s t : State} (h : exec i s = .next t) : movesSp i s t := by
  cases i with
  | mov dst src =>
    rw [exec_mov_next h]
    exact movesSp_of_sp_eq (by simp)
  | daa =>
    rw [exec_daa_next h]
    exact movesSp_of_sp_eq rfl
  | inx q | dcx q | lxi q _ =>
    cases h
    cases q with
    | sp => exact movesSp_of_setsSp rfl
    | b | d | h => exact movesSp_of_sp_eq rfl
  | sphl => exact movesSp_of_setsSp rfl
  | push _ | call _ | rst _ =>
    cases h
    exact movesSp_of_taken (.inl rfl) (spWritten_eq_taken _ rfl rfl nofun) rfl
  | cc _ | cnc _ | cz _ | cnz _ | cm _ | cp _ | cpe _ | cpo _ =>
    cases h
    exact movesSp_of_taken (.inl rfl) (spWritten_eq_taken _ rfl rfl nofun) (State.callIf_sp ..)
  | pop q =>
    cases h
    exact movesSp_of_taken (.inr rfl) (spWritten_eq_taken _ rfl rfl nofun) (State.setStackPair_sp ..)
  | ret =>
    cases h
    exact movesSp_of_taken (.inr rfl) (spWritten_eq_taken _ rfl rfl nofun) rfl
  | rc | rnc | rz | rnz | rm | rp | rpe | rpo =>
    cases h
    exact movesSp_of_taken (.inr rfl) (spWritten_eq_taken _ rfl rfl nofun) (State.retIf_sp ..)
  | dad _ | xthl | lhld _ =>
    cases h
    exact movesSp_of_sp_eq (by simp [State.setPair])
  | unassigned08 | unassigned10 | unassigned18 | unassigned20 | unassigned28 | unassigned30 | unassigned38 | unassignedCB
  | unassignedD9 | unassignedDD | unassignedED | unassignedFD => cases h
  | _ =>
    cases h
    exact movesSp_of_sp_eq (by simp)

/-- The program counter changes only by a transfer of control whose condition holds (`10_state.md` R14, R16). -/
theorem exec_pc_of_not_transfer {i : Instr} {s t : State} (h : exec i s = .next t)
    (hn : (i.transfers && i.taken s.flags) = false) : t.pc = s.pc := by
  cases i with
  | mov dst src =>
    rw [exec_mov_next h]
    simp
  | daa =>
    rw [exec_daa_next h]
    rfl
  | pchl | jmp _ | call _ | ret | rst _ => cases hn
  | jc _ | jnc _ | jz _ | jnz _ | jm _ | jp _ | jpe _ | jpo _ =>
    cases h
    exact State.jumpIf_pc_of_not hn
  | cc _ | cnc _ | cz _ | cnz _ | cm _ | cp _ | cpe _ | cpo _ =>
    cases h
    exact State.callIf_pc_of_not hn
  | rc | rnc | rz | rnz | rm | rp | rpe | rpo =>
    cases h
    exact State.retIf_pc_of_not hn
  | unassigned08 | unassigned10 | unassigned18 | unassigned20 | unassigned28 | unassigned30 | unassigned38 | unassignedCB
  | unassignedD9 | unassignedDD | unassignedED | unassignedFD => cases h
  | _ =>
    cases h
    simp

/-- Settles O45: SP and the program counter, each by cases on the instruction. -/
theorem pointersUntouched : Obligations.PointersUntouched := by
  intro i s t h
  obtain ⟨hkept, hbyTwo⟩ := exec_movesSp h
  exact ⟨hkept, hbyTwo, exec_pc_of_not_transfer h⟩

/-! ## INTE, the run state, the devices and the environment (`10_state.md` R28, R29, `20_memory.md` R41, R56) -/

/-- `t` differs from `s` in the registers, the pointers, the condition bits and the bytes of memory only, and in the free
values that these reads take. -/
def computes (loads : List Word) (s t : State) : Prop :=
  t = { s.afterLoads loads with regs := t.regs, pc := t.pc, sp := t.sp, flags := t.flags, mem := t.mem }

/-- The instruction reaches INTE, the run state or a device (`48_interrupt_io_halt.md`). -/
def isControl : Instr → Bool
  | .ei | .di | .hlt | .inp _ | .out _ => true
  | _ => false

/-- Every other instruction computes, its reads those of the table `Instr.loadedBytes`. -/
theorem exec_computes {i : Instr} {s t : State} (h : exec i s = .next t) (hc : isControl i = false) :
    computes (i.loadedBytes s) s t := by
  cases i with
  | mov dst src =>
    rw [exec_mov_next h, State.afterOperand_eq_afterLoads, State.writeR8_frame]
    rfl
  | daa =>
    rw [exec_daa_next h]
    rfl
  | inr r | dcr r =>
    cases h
    rw [State.afterOperand_eq_afterLoads, State.writeR8_frame]
    rfl
  | add r | adc r | sub r | sbb r | ana r | xra r | ora r | cmp r =>
    cases h
    rw [State.afterOperand_eq_afterLoads]
    rfl
  | mvi r _ =>
    cases h
    rw [State.writeR8_frame]
    rfl
  | stax _ | sta _ =>
    cases h
    rw [State.writeByte_frame]
    rfl
  | shld _ =>
    cases h
    rw [State.writeWord_frame]
    rfl
  | ldax _ | lda _ =>
    cases h
    rw [State.afterRead_eq_afterLoads]
    rfl
  | lhld _ =>
    cases h
    rw [State.afterRead_afterRead]
    rfl
  | xthl =>
    cases h
    rw [State.afterRead_afterRead, State.writeWord_frame]
    rfl
  | push _ =>
    cases h
    rw [State.pushBytes_frame]
    rfl
  | pop q =>
    cases h
    rw [State.afterRead_afterRead]
    cases q <;> rfl
  | inx q | dcx q | lxi q _ =>
    cases h
    cases q <;> rfl
  | jc _ | jnc _ | jz _ | jnz _ | jm _ | jp _ | jpe _ | jpo _ =>
    cases h
    rw [State.jumpIf_eq]
    rfl
  | call _ | rst _ =>
    cases h
    rw [State.callOp_frame]
    rfl
  | cc _ | cnc _ | cz _ | cnz _ | cm _ | cp _ | cpe _ | cpo _ =>
    cases h
    rw [State.callIf_frame]
    rfl
  | ret =>
    cases h
    rw [State.retOp_eq_afterLoads]
    rfl
  | rc | rnc | rz | rnz | rm | rp | rpe | rpo =>
    cases h
    rw [State.retIf_eq_afterLoads]
    rfl
  | ei | di | hlt | inp _ | out _ => cases hc
  | unassigned08 | unassigned10 | unassigned18 | unassigned20 | unassigned28 | unassigned30 | unassigned38 | unassignedCB
  | unassignedD9 | unassignedDD | unassignedED | unassignedFD => cases h
  | _ =>
    cases h
    rfl

/-- Settles O46: the five instructions that reach INTE, the run state or a device one by one; every other computes. -/
theorem controlUntouched : Obligations.ControlUntouched := by
  intro i s t h
  cases hc : isControl i with
  | false =>
    rw [exec_computes h hc]
    exact ⟨⟨rfl, rfl, rfl, rfl⟩, fun _ _ => rfl, fun _ => rfl, fun _ => rfl, fun _ => rfl, rfl⟩
  | true =>
    cases i with
    | ei =>
      cases h
      exact ⟨⟨rfl, rfl, rfl, rfl⟩, fun hne => absurd rfl hne, fun _ => rfl, fun _ => rfl, fun _ => rfl, rfl⟩
    | di =>
      cases h
      exact ⟨⟨rfl, rfl, rfl, rfl⟩, fun _ hne => absurd rfl hne, fun _ => rfl, fun _ => rfl, fun _ => rfl, rfl⟩
    | hlt =>
      cases h
      exact ⟨⟨rfl, rfl, rfl, rfl⟩, fun _ _ => rfl, fun hne => absurd rfl hne, fun _ => rfl, fun _ => rfl, rfl⟩
    | out dev =>
      cases h
      exact ⟨⟨rfl, rfl, rfl, rfl⟩, fun _ _ => rfl, fun _ => rfl, fun hne => absurd rfl (hne dev), fun _ => rfl, rfl⟩
    | inp dev =>
      cases h
      exact ⟨⟨rfl, rfl, rfl, rfl⟩, fun _ _ => rfl, fun _ => rfl, fun _ => rfl, fun hne => absurd rfl (hne dev), rfl⟩
    | _ => cases hc

end Sys2Proof.Machine

/-! PROOFS of the family `20_memory.md`: what an instruction and a step do to memory and to the output trace.

Everything said of memory rests on one fact, `exec_stores`: an instruction changes memory by the byte stores of its rule and by
nothing else. What a store keeps (the canonical form, the memory map, every byte outside read/write memory) is then said of a
list of stores once, and each statement follows. -/

namespace Sys2Proof.Machine

/-! ## Lists of stores (`20_memory.md` R45, R57) -/

/-- The bytes of memory and what kind of memory stands where are the same. -/
def sameMemory (s t : State) : Prop := t.mem = s.mem ∧ t.memMap = s.memMap

/-- Memory in `t` is what byte stores to these addresses, in this order and each the model's `State.writeByte`, make of memory
in `s`; what else differs is not said. -/
inductive Stores : List Word → State → State → Prop
  /-- no store -/
  | nothing {s t : State} (h : sameMemory s t) : Stores [] s t
  /-- one store first, of any byte, then the others -/
  | byte {adr : Word} {adrs : List Word} {s t : State} (v : Byte) (h : Stores adrs (s.writeByte adr v) t) :
      Stores (adr :: adrs) s t

section StoreLists

variable {s t u : State}

/-- A store sees only memory and the memory map. -/
theorem sameMemory_writeByte (h : sameMemory s u) (adr : Word) (v : Byte) :
    sameMemory (s.writeByte adr v) (u.writeByte adr v) := by
  obtain ⟨hmem, hmap⟩ := h
  constructor
  · simp only [State.writeByte_eq, State.kind_congr hmap, hmem]
  · simpa using hmap

/-- What comes before the stores may change everything but memory. -/
theorem Stores.of_sameMemory {adrs : List Word} (hs : Stores adrs u t) (h : sameMemory s u) : Stores adrs s t := by
  induction hs generalizing s with
  | nothing ht => exact .nothing ⟨ht.1.trans h.1, ht.2.trans h.2⟩
  | byte v _ ih => exact .byte v (ih (sameMemory_writeByte h _ v))

/-- What comes after the stores may change everything but memory. -/
theorem Stores.to_sameMemory {adrs : List Word} (hs : Stores adrs s t) (h : sameMemory t u) : Stores adrs s u := by
  induction hs with
  | nothing hs => exact .nothing ⟨h.1.trans hs.1, h.2.trans hs.2⟩
  | byte v _ ih => exact .byte v (ih h)

/-- Stores leave the memory map (R41). -/
theorem Stores.memMap_eq {adrs : List Word} (hs : Stores adrs s t) : t.memMap = s.memMap := by
  induction hs with
  | nothing h => exact h.2
  | byte _ _ ih => simpa using ih

/-- Stores keep the canonical form (R40). -/
theorem Stores.wf {adrs : List Word} (hs : Stores adrs s t) (h : s.mem.wf) : t.mem.wf := by
  induction hs with
  | nothing hsame =>
    rw [hsame.1]
    exact h
  | byte v _ ih => exact ih (State.writeByte_wf h _ v)

/-- A byte is as it was, but at the addresses stored to that are read/write memory (R45). -/
theorem Stores.sameBytesBut_writable {adrs : List Word} (hs : Stores adrs s t) :
    sameBytesBut (adrs.filter (fun adr => s.kind adr == .rw)) s t := by
  induction hs with
  | nothing h =>
    intro other _
    rw [h.1]
  | @byte adr adrs s t v _ ih =>
    intro other hother
    have hrest : other ∉ adrs.filter (fun a => s.kind a == .rw) := fun hmem =>
      hother ((List.sublist_cons_self adr adrs).filter _ |>.mem hmem)
    have hfirst : ¬(other = adr ∧ s.kind adr = .rw) := by
      rintro ⟨rfl, hrw⟩
      exact hother (by simp [hrw])
    rw [ih other (by simpa using hrest), State.writeByte_read, if_neg hfirst]

/-- Outside read/write memory no byte changes, wherever the stores go (R45). -/
theorem Stores.read_of_unwritable {adrs : List Word} (hs : Stores adrs s t) {adr : Word} (hk : s.kind adr ≠ .rw) :
    t.mem.read adr = s.mem.read adr :=
  hs.sameBytesBut_writable adr (by simp [hk])

end StoreLists

/-! ## The stores of the shared operations -/

/-- The address of an M operand depends on the registers alone (`20_memory.md` R49). -/
theorem R8.bytes_congr {s u : State} (h : u.regs = s.regs) (r : R8) : r.bytes u = r.bytes s := by
  cases r with
  | m => simp only [R8.bytes, State.hl, h]
  | b | c | d | e | h | l | a => rfl

theorem sameMemory_afterOperand (s : State) (r : R8) : sameMemory s (s.afterOperand r) := ⟨by simp, by simp⟩

theorem stores_writeByte (s : State) (adr : Word) (v : Byte) : Stores [adr] s (s.writeByte adr v) :=
  .byte v (.nothing ⟨rfl, rfl⟩)

/-- An 8-bit result is stored where its operand is M, and to no byte elsewhere. -/
theorem stores_writeR8 (s : State) (r : R8) (v : Byte) : Stores (r.bytes s) s (s.writeR8 r v) := by
  cases r with
  | m => exact stores_writeByte s s.hl v
  | b | c | d | e | h | l | a => exact .nothing ⟨rfl, rfl⟩

/-- The same where an operand has been read first. -/
theorem stores_writeR8_afterOperand (s : State) (src dst : R8) (v : Byte) :
    Stores (dst.bytes s) s ((s.afterOperand src).writeR8 dst v) := by
  rw [← R8.bytes_congr (State.afterOperand_regs s src) dst]
  exact (stores_writeR8 _ dst v).of_sameMemory (sameMemory_afterOperand s src)

theorem stores_writeWord (s : State) (adr v : Word) : Stores [adr, adr + 1#16] s (s.writeWord adr v) :=
  (stores_writeByte _ _ _).byte _

/-- XTHL stores after it has read and before it loads H and L (`44_register_pair.md` R167). -/
theorem stores_xthl (s : State) (v w : Word) :
    Stores [s.sp, s.sp + 1#16] s ((((s.afterRead s.sp).afterRead (s.sp + 1#16)).writeWord s.sp v).setPair .h w) :=
  have hread : sameMemory s ((s.afterRead s.sp).afterRead (s.sp + 1#16)) := ⟨by simp, by simp⟩
  ((stores_writeWord _ s.sp v).of_sameMemory hread).to_sameMemory ⟨rfl, rfl⟩

/-- A push stores to the two addresses below SP (`20_memory.md` R50). -/
theorem stores_pushBytes (s : State) (x y : Byte) : Stores [s.sp - 1#16, s.sp - 2#16] s (s.pushBytes x y) :=
  ((stores_writeByte _ _ y).byte x).to_sameMemory ⟨rfl, rfl⟩

theorem stores_callOp (s : State) (target : Word) : Stores [s.sp - 1#16, s.sp - 2#16] s (s.callOp target) :=
  (stores_pushBytes s _ _).to_sameMemory ⟨rfl, rfl⟩

/-- A conditional call stores where its condition holds (`47_jump_call_return_rst.md` R222 to R229). -/
theorem stores_callIf (s : State) (cnd : Cond) (target : Word) {adrs : List Word}
    (hadrs : adrs = if s.flags.holds cnd then [s.sp - 1#16, s.sp - 2#16] else []) :
    Stores adrs s (s.callIf cnd target) := by
  subst hadrs
  unfold State.callIf
  split
  · exact stores_callOp s target
  · exact .nothing ⟨rfl, rfl⟩

theorem sameMemory_retIf (s : State) (cnd : Cond) : sameMemory s (s.retIf cnd) := by
  rw [State.retIf_eq_afterLoads]
  exact ⟨rfl, rfl⟩

theorem sameMemory_jumpIf (s : State) (cnd : Cond) (target : Word) : sameMemory s (s.jumpIf cnd target) := by
  rw [State.jumpIf_eq]
  exact ⟨rfl, rfl⟩

theorem sameMemory_retOp (s : State) : sameMemory s s.retOp := by
  rw [State.retOp_eq_afterLoads]
  exact ⟨rfl, rfl⟩

/-! ## The stores of an instruction -/

/-- Every instruction changes memory by byte stores to the addresses of the table `Instr.storedBytes`, in the table's order, and
by nothing else (`20_memory.md` R49, R50, R57). -/
theorem exec_stores {i : Instr} {s t : State} (h : exec i s = .next t) : Stores (i.storedBytes s) s t := by
  cases i with
  | mov dst src =>
    rw [exec_mov_next h]
    exact stores_writeR8_afterOperand s src dst _
  | daa =>
    rw [exec_daa_next h]
    exact .nothing ⟨rfl, rfl⟩
  | inr r | dcr r =>
    cases h
    exact (stores_writeR8_afterOperand s r r _).to_sameMemory ⟨rfl, rfl⟩
  | mvi r _ =>
    cases h
    exact stores_writeR8 s r _
  | stax _ | sta _ =>
    cases h
    exact stores_writeByte s _ _
  | shld adr =>
    cases h
    exact stores_writeWord s adr _
  | xthl =>
    cases h
    exact stores_xthl s _ _
  | push _ =>
    cases h
    exact stores_pushBytes s _ _
  | call _ | rst _ =>
    cases h
    exact stores_callOp s _
  | cc _ | cnc _ | cz _ | cnz _ | cm _ | cp _ | cpe _ | cpo _ =>
    cases h
    exact stores_callIf s _ _ rfl
  | jc _ | jnc _ | jz _ | jnz _ | jm _ | jp _ | jpe _ | jpo _ =>
    cases h
    exact .nothing (sameMemory_jumpIf s _ _)
  | ret =>
    cases h
    exact .nothing (sameMemory_retOp s)
  | rc | rnc | rz | rnz | rm | rp | rpe | rpo =>
    cases h
    exact .nothing (sameMemory_retIf s _)
  | unassigned08 | unassigned10 | unassigned18 | unassigned20 | unassigned28 | unassigned30 | unassigned38 | unassignedCB
  | unassignedD9 | unassignedDD | unassignedED | unassignedFD => cases h
  | _ =>
    cases h
    exact .nothing ⟨by simp, by simp⟩

/-- Settles O44: the stores of the instruction reach only read/write memory. -/
theorem memoryUntouched : Obligations.MemoryUntouched :=
  fun _ _ _ h => (exec_stores h).sameBytesBut_writable

/-! ## The step as an instruction executed or a wait (`60_exceptions.md` R345, R347) -/

/-- An acceptance executes the supplied instruction. -/
theorem executes_of_accepted {s : State} {op : Byte} (hirq : s.irqNow = some op) (hinte : s.inte = true)
    (hadmitted : admitted op = true) : s.executes = some (decodeBytes op 0#8 0#8) := by
  simp [State.executes, hirq, hinte, hadmitted]

/-- A RUNNING machine with no request it can accept executes what it fetches. -/
theorem executes_of_running {s : State} (hrun : s.run = .running) (hirq : s.irqNow = none ∨ s.inte = false) :
    s.executes = some (fetch s.nextBoundary).1 := by
  unfold State.executes
  rcases hirq with hnone | hoff
  · simp [hnone, hrun]
  · cases hi : s.irqNow <;> simp [hoff, hrun]

/-- A step that answers a next state waits, or executes an instruction in a state `u` that differs from `s` in what the draw, an
acceptance and a fetch touch only: `pc`, INTE, the run state, the boundary counter and the free values used up. -/
theorem step_executes {s t : State} (h : step s = .next t) :
    t = s.nextBoundary ∨
    ∃ i u, s.executes = some i ∧ exec i u = .next t ∧
      u = { s with pc := u.pc, inte := u.inte, run := u.run, boundary := s.boundary + 1, absentReads := u.absentReads } := by
  rcases step_next h with ⟨op, hirq, hinte, hadmitted, hexec⟩ | ⟨hirq, hrun, hexec⟩ | ⟨-, -, -, hwait⟩
  · exact .inr ⟨_, _, executes_of_accepted hirq hinte hadmitted, hexec, rfl⟩
  · refine .inr ⟨_, (fetch s.nextBoundary).2, executes_of_running hrun hirq, hexec, ?_⟩
    rw [fetch_eq]
    rfl
  · exact .inl hwait

/-- A step changes memory by byte stores only, whatever it is: an acceptance, an instruction of the program or a wait. -/
theorem step_stores {s t : State} (h : step s = .next t) : ∃ adrs, Stores adrs s t := by
  rcases step_executes h with rfl | ⟨i, u, -, hexec, hu⟩
  · exact ⟨[], .nothing ⟨rfl, rfl⟩⟩
  · refine ⟨i.storedBytes u, (exec_stores hexec).of_sameMemory ?_⟩
    rw [hu]
    exact ⟨rfl, rfl⟩

/-- Settles O47: the stores of a step keep the canonical form. -/
theorem stepKeepsMemoryForm : Obligations.StepKeepsMemoryForm := by
  intro s t hwf h
  obtain ⟨adrs, hstores⟩ := step_stores h
  exact hstores.wf hwf

/-- Settles O48: nothing is listed, so nothing is out of order. -/
theorem resetMemoryForm : Obligations.ResetMemoryForm := ⟨reset_mem_wf, rfl⟩

/-- Settles O49: the stores of a step leave the memory map and reach only read/write memory. -/
theorem stepKeepsUnwritableMemory : Obligations.StepKeepsUnwritableMemory := by
  intro s t adr h
  obtain ⟨adrs, hstores⟩ := step_stores h
  exact ⟨State.kind_congr hstores.memMap_eq adr, hstores.read_of_unwritable⟩

/-! ## The output trace (`20_memory.md` R56) -/

/-- OUT appends its device and A to the output trace (`48_interrupt_io_halt.md` R264); every other instruction leaves it. -/
theorem exec_outTrace {i : Instr} {s t : State} (h : exec i s = .next t) :
    t.outTrace = s.outTrace ∨ ∃ dev, i = .out dev ∧ t.outTrace = s.outTrace ++ [(dev, s.regs.a)] := by
  by_cases hout : ∃ dev, i = .out dev
  · obtain ⟨dev, rfl⟩ := hout
    cases h
    exact .inr ⟨dev, rfl, rfl⟩
  · obtain ⟨-, -, -, houtTrace, -, -⟩ := controlUntouched i s t h
    exact .inl (houtTrace fun dev hi => hout ⟨dev, hi⟩)

/-- Settles O58: a wait leaves the output trace, and an instruction executes with the trace and A as they are in `s`. -/
theorem outputTraceGrows : Obligations.OutputTraceGrows := by
  intro s t h
  rcases step_executes h with rfl | ⟨i, u, hexecutes, hexec, hu⟩
  · exact .inl rfl
  · have htrace : u.outTrace = s.outTrace := by rw [hu]
    have hregs : u.regs = s.regs := by rw [hu]
    rw [← htrace, ← hregs]
    exact (exec_outTrace hexec).imp_right fun ⟨dev, hi, hgrown⟩ => ⟨dev, hexecutes.trans (congrArg some hi), hgrown⟩

end Sys2Proof.Machine

/-! PROOFS of the family `30_encoding.md`: the decoder and the encoder undo each other, and the first byte alone selects the
row.

What is said of decoded bytes rests on one fact, `decodeBytes_eq_withOperands`: the second and third bytes are only copied into
the operand of the row that the first byte selects (R92). A statement about all bytes is then one about the 256 first bytes
and one about what `Instr.withOperands` keeps. What is said of an instruction's encoding goes by cases on its format. -/

namespace Sys2Proof

/-! ## The operand bytes take no part in selecting the row (`30_encoding.md` R92) -/

/-- The same row with its immediate datum, address or device number made from a second and a third byte (R74, R75). -/
def Instr.withOperands (b2 b3 : Byte) : Instr → Instr
  | .lxi q _ => .lxi q (b3 ++ b2)
  | .mvi r _ => .mvi r b2
  | .adi _ => .adi b2
  | .aci _ => .aci b2
  | .sui _ => .sui b2
  | .sbi _ => .sbi b2
  | .ani _ => .ani b2
  | .xri _ => .xri b2
  | .ori _ => .ori b2
  | .cpi _ => .cpi b2
  | .sta _ => .sta (b3 ++ b2)
  | .lda _ => .lda (b3 ++ b2)
  | .shld _ => .shld (b3 ++ b2)
  | .lhld _ => .lhld (b3 ++ b2)
  | .jmp _ => .jmp (b3 ++ b2)
  | .jc _ => .jc (b3 ++ b2)
  | .jnc _ => .jnc (b3 ++ b2)
  | .jz _ => .jz (b3 ++ b2)
  | .jnz _ => .jnz (b3 ++ b2)
  | .jm _ => .jm (b3 ++ b2)
  | .jp _ => .jp (b3 ++ b2)
  | .jpe _ => .jpe (b3 ++ b2)
  | .jpo _ => .jpo (b3 ++ b2)
  | .call _ => .call (b3 ++ b2)
  | .cc _ => .cc (b3 ++ b2)
  | .cnc _ => .cnc (b3 ++ b2)
  | .cz _ => .cz (b3 ++ b2)
  | .cnz _ => .cnz (b3 ++ b2)
  | .cm _ => .cm (b3 ++ b2)
  | .cp _ => .cp (b3 ++ b2)
  | .cpe _ => .cpe (b3 ++ b2)
  | .cpo _ => .cpo (b3 ++ b2)
  | .inp _ => .inp b2
  | .out _ => .out b2
  | i => i

/-- The first byte selects the row; the second and third only fill its operand (`30_encoding.md` R92). -/
theorem decodeBytes_eq_withOperands (op b2 b3 : Byte) :
    decodeBytes op b2 b3 = (decodeBytes op 0#8 0#8).withOperands b2 b3 := by
  have quadrant00 : decodeQuadrant00 op b2 b3 = (decodeQuadrant00 op 0#8 0#8).withOperands b2 b3 := by
    unfold decodeQuadrant00
    dsimp only
    split
    case h_5 | h_6 | h_7 => rfl
    all_goals split <;> rfl
  have quadrant01 : decodeQuadrant01 op = (decodeQuadrant01 op).withOperands b2 b3 := by
    unfold decodeQuadrant01
    split <;> rfl
  have quadrant10 : decodeQuadrant10 op = (decodeQuadrant10 op).withOperands b2 b3 := by
    unfold decodeQuadrant10
    dsimp only
    split <;> rfl
  have quadrant11 : decodeQuadrant11 op b2 b3 = (decodeQuadrant11 op 0#8 0#8).withOperands b2 b3 := by
    unfold decodeQuadrant11
    dsimp only
    split
    case h_8 => rfl
    all_goals split <;> rfl
  unfold decodeBytes
  split
  · exact quadrant00
  · exact quadrant01
  · exact quadrant10
  · exact quadrant11

theorem Instr.mnemonic_withOperands (i : Instr) (b2 b3 : Byte) : (i.withOperands b2 b3).mnemonic = i.mnemonic := by
  cases i <;> rfl

theorem Instr.wellFormed_withOperands (i : Instr) (b2 b3 : Byte) : (i.withOperands b2 b3).wellFormed = i.wellFormed := by
  cases i <;> rfl

/-- The encoding of an address made of two bytes is those bytes, the low one first (`30_encoding.md` R75). -/
theorem withWord_append (op b2 b3 : Byte) : withWord op (b3 ++ b2) = [op, b2, b3] := by
  obtain ⟨hhigh, hlow⟩ := Machine.append_split b3 b2
  rw [withWord, lowByte, highByte, hlow, hhigh]

/-- The operand bytes come back after the first byte, as many as the instruction has (`30_encoding.md` R70). -/
theorem encode_withOperands (i : Instr) (b2 b3 : Byte) :
    encode (i.withOperands b2 b3) = (encode i).take 1 ++ [b2, b3].take ((encode i).length - 1) := by
  cases i with
  | mov dst src =>
    simp only [Instr.withOperands, encode]
    split <;> rfl
  | lxi | sta | lda | shld | lhld | jmp | jc | jnc | jz | jnz | jm | jp | jpe | jpo | call | cc | cnc | cz | cnz | cm | cp
  | cpe | cpo => exact withWord_append _ _ _
  | _ => rfl

/-- Decoding drops no bit: the encoding of what is decoded is the bytes that took part (`30_encoding.md` R70, R93). -/
theorem encode_decodeBytes (op b2 b3 : Byte) : encode (decodeBytes op b2 b3) = [op, b2, b3].take (instrLength op) := by
  have without_operands : ∀ op : Byte, encode (decodeBytes op 0#8 0#8) = [op, 0#8, 0#8].take (instrLength op) := by decide
  rw [decodeBytes_eq_withOperands, encode_withOperands, without_operands]
  rcases Machine.instrLength_cases op with h | h | h <;> simp [h]

/-- Every first byte selects a row that has an encoding: 76H is HLT, not MOV M,M (`30_encoding.md` R84). -/
theorem wellFormed_decodeBytes (op b2 b3 : Byte) : (decodeBytes op b2 b3).wellFormed = true := by
  have without_operands : ∀ op : Byte, (decodeBytes op 0#8 0#8).wellFormed = true := by decide
  rw [decodeBytes_eq_withOperands, Instr.wellFormed_withOperands, without_operands]

/-! ## Strings of bytes that decode (`30_encoding.md` R70, R71) -/

/-- What decodes is a first byte with the bytes it asks for, then the rest. -/
theorem decode_eq_ok {bytes rest : List Byte} {i : Instr} (h : decode bytes = .ok (i, rest)) :
    ∃ op b2 b3, i = decodeBytes op b2 b3 ∧ bytes = [op, b2, b3].take (instrLength op) ++ rest := by
  unfold decode at h
  split at h
  · cases h
  · rename_i op tail
    split at h
    case h_1 hlen =>
      cases h
      exact ⟨op, 0#8, 0#8, rfl, by simp [hlen]⟩
    case h_2 b2 tail hlen =>
      cases h
      exact ⟨op, b2, 0#8, rfl, by simp [hlen]⟩
    case h_3 b2 b3 tail hlen =>
      cases h
      exact ⟨op, b2, b3, rfl, by simp [hlen]⟩
    case h_4 => cases h

/-- A three-byte row, decoded from the bytes of its address or 16-bit datum, the low byte first (R75). -/
theorem decode_withWord {op : Byte} {row : Word → Instr} (hlen : instrLength op = 3)
    (hrow : ∀ b2 b3, decodeBytes op b2 b3 = row (b3 ++ b2)) (w : Word) (rest : List Byte) :
    decode (withWord op w ++ rest) = .ok (row w, rest) := by
  have hword : highByte w ++ lowByte w = w := Machine.word_split w
  simp [withWord, decode, hlen, hrow, hword]

/-- RST's code is the middle field of its one byte (`30_encoding.md` R78). -/
theorem decode_rst (exp : BitVec 3) (rest : List Byte) : decode (encode (.rst exp) ++ rest) = .ok (.rst exp, rest) := by
  have hlen : ∀ exp : BitVec 3, instrLength (0b11#2 ++ exp ++ 0b111#3) = 1 := by decide
  have hrow : ∀ exp : BitVec 3, decodeBytes (0b11#2 ++ exp ++ 0b111#3) 0#8 0#8 = .rst exp := by decide
  simp [encode, decode, hlen, hrow]

/-! ## The statements -/

/-- Settles O1, by cases on the format: no operand, a datum or device byte, a register or pair field, RST's code, a 16-bit
address or datum. -/
theorem decodeInvertsEncode : Obligations.DecodeInvertsEncode := by
  intro i rest hwf
  cases i with
  | stc | cmc | cma | daa | nop | rlc | rrc | ral | rar | xchg | xthl | sphl | pchl | ret | rc | rnc | rz | rnz | rm | rp
  | rpe | rpo | ei | di | hlt => rfl
  | unassigned08 | unassigned10 | unassigned18 | unassigned20 | unassigned28 | unassigned30 | unassigned38 | unassignedCB
  | unassignedD9 | unassignedDD | unassignedED | unassignedFD => rfl
  | adi | aci | sui | sbi | ani | xri | ori | cpi | inp | out => rfl
  | inr r | dcr r | add r | adc r | sub r | sbb r | ana r | xra r | ora r | cmp r | mvi r data => cases r <;> rfl
  | stax q | ldax q | push q | pop q | dad q | inx q | dcx q => cases q <;> rfl
  | mov dst src =>
    cases dst <;> cases src
    case m.m => cases hwf
    all_goals rfl
  | rst exp => exact decode_rst exp rest
  | lxi q data => cases q <;> exact decode_withWord rfl (fun _ _ => rfl) data rest
  | sta adr | lda adr | shld adr | lhld adr | jmp adr | jc adr | jnc adr | jz adr | jnz adr | jm adr | jp adr | jpe adr
  | jpo adr | call adr | cc adr | cnc adr | cz adr | cnz adr | cm adr | cp adr | cpe adr | cpo adr =>
    exact decode_withWord rfl (fun _ _ => rfl) adr rest

/-- Settles O2: what decodes is a row of a first byte, and its encoding is the bytes that took part. -/
theorem encodeInvertsDecode : Obligations.EncodeInvertsDecode := by
  intro bytes rest i h
  obtain ⟨op, b2, b3, rfl, rfl⟩ := decode_eq_ok h
  exact ⟨wellFormed_decodeBytes op b2 b3, by rw [encode_decodeBytes]⟩

/-- A row's test of a byte, on natural numbers: the form in which the 256 bytes are put to the 90 rows quickly. -/
theorem OpcodeRow.selects_eq_nat (row : OpcodeRow) (op : Byte) :
    row.selects op = (Nat.beq (op.toNat &&& row.mask.toNat) row.pattern.toNat && row.exclude != some op) := by
  have hmasked : (op &&& row.mask == row.pattern) = Nat.beq (op &&& row.mask).toNat row.pattern.toNat := by
    rw [Bool.eq_iff_iff, beq_iff_eq, Nat.beq_eq, BitVec.toNat_inj]
  rw [OpcodeRow.selects, hmasked, BitVec.toNat_and]

/-- Settles O3: the table against the rows the 256 first bytes select, which the other two bytes do not change. -/
theorem everyFirstByteSelectsOneRow : Obligations.EveryFirstByteSelectsOneRow := by
  have without_operands : ∀ op : Byte, (opcodeTable.filter fun row => row.selects op).map (fun row => row.mnemonic) =
      [(decodeBytes op 0#8 0#8).mnemonic] := by
    simp only [OpcodeRow.selects_eq_nat]
    decide
  intro op b2 b3
  rw [decodeBytes_eq_withOperands, Instr.mnemonic_withOperands, without_operands]

/-- Settles O4: the encoding is as long as `instrLength` of the first byte, whose table of bytes is finite. -/
theorem firstByteFixesLength : Obligations.FirstByteFixesLength := by
  intro op b2 b3
  rw [Machine.encode_decodeBytes_length]
  revert op
  decide

/-- A word of the opcode table's numbering decodes to the instruction whose bytes it begins with. -/
theorem decodeTableWord_of_encode {nbits w : Nat} {i : Instr} (rest : List Byte) (hwf : i.wellFormed = true)
    (hbytes : tableWordBytes nbits w = encode i ++ rest) : decodeTableWord nbits w = some i := by
  rw [decodeTableWord, hbytes, decodeInvertsEncode i rest hwf]

/-- Settles O5: each word holds the bytes its statement is encoded in, the unused ones zero, and the round trip decodes
them. -/
theorem decodedWords : Obligations.DecodedWords :=
  ⟨decodeTableWord_of_encode [] rfl rfl, decodeTableWord_of_encode [] rfl rfl,
    decodeTableWord_of_encode [0#8] rfl rfl, decodeTableWord_of_encode [0#8] rfl rfl,
    decodeTableWord_of_encode [0#8, 0#8] rfl rfl, decodeTableWord_of_encode [0#8, 0#8] rfl rfl,
    decodeTableWord_of_encode [0#8, 0#8] rfl rfl, decodeTableWord_of_encode [0#8, 0#8] rfl rfl,
    decodeTableWord_of_encode [0#8, 0#8] rfl rfl, decodeTableWord_of_encode [] rfl rfl⟩

/-- Settles O15: `execMov` refuses the pair M,M, and what decodes is well-formed. -/
theorem moveMemoryToMemory : Obligations.MoveMemoryToMemory := by
  refine ⟨fun _ => rfl, fun bytes rest h => ?_⟩
  obtain ⟨hwf, -⟩ := encodeInvertsDecode bytes rest _ h
  cases hwf

/-- Settles O41, byte by byte: the row of an unassigned byte has no operand, and its meaning is the refusal. -/
theorem unassignedRefused : Obligations.UnassignedRefused := by
  intro x hx s b2 b3
  simp only [List.mem_cons, List.not_mem_nil, or_false] at hx
  rcases hx with rfl | rfl | rfl | rfl | rfl | rfl | rfl | rfl | rfl | rfl | rfl | rfl <;> exact ⟨rfl, rfl⟩

end Sys2Proof

/-! PROOFS of the family `40_carry_single_register_nop.md`: the carry bit, INR and DCR, CMA, DAA and NOP.

A layer first: the condition bits of a result in exact arithmetic, an 8-bit result written to its operand, and the two steps
of DAA as equations in exact arithmetic. The decimal sum is then followed digit by digit: step 1 leaves its low digit and has
sent a carry to the high one, step 2 leaves its high digit and the carry out of it. -/

namespace Sys2Proof.Machine

/-! ## The condition bits a result byte gives (`10_state.md` R23, R25, R26) -/

/-- SetZSP leaves CY and AC. -/
theorem Flags.setZSP_eq_flagsOf (f : Flags) (v : Byte) : f.setZSP v = flagsOf v f.cy f.ac := by
  have hs : v.getLsbD 7 = decide (128 ≤ v.toNat) := BitVec.msb_eq_decide v
  have hz : (v == 0#8) = decide (v.toNat = 0) := by
    rw [Bool.eq_iff_iff, beq_iff_eq, decide_eq_true_eq, BitVec.toNat_eq, BitVec.toNat_ofNat, Nat.zero_mod]
  rw [Flags.setZSP, flagsOf, hs, hz, parity_eq_count, evenOnes]

/-- INR's value and condition bits, exactly (`40_carry_single_register_nop.md` R102, D17; log 22). -/
theorem Flags.increment_eq (f : Flags) (v : Byte) :
    f.increment v =
      (BitVec.ofNat 8 (v.toNat + 1), flagsOf (BitVec.ofNat 8 (v.toNat + 1)) f.cy (decide (v.toNat % 16 = 15))) := by
  have hw : v + 1#8 = BitVec.ofNat 8 (v.toNat + 1) := by simp [BitVec.ofNat_add]
  have hac : carry3 v 1#8 false = decide (v.toNat % 16 = 15) := by
    rw [carry3_eq, decide_eq_decide, BitVec.toNat_ofNat, Bool.toNat_false]
    omega
  rw [Flags.increment, Flags.setZSP_eq_flagsOf, hw, hac]
  rfl

/-- DCR's value and condition bits, exactly (`40_carry_single_register_nop.md` R103, D17; log 22). -/
theorem Flags.decrement_eq (f : Flags) (v : Byte) :
    f.decrement v =
      (BitVec.ofNat 8 (v.toNat + 255), flagsOf (BitVec.ofNat 8 (v.toNat + 255)) f.cy (decide (v.toNat % 16 ≠ 0))) := by
  have hw : v + 0xFF#8 = BitVec.ofNat 8 (v.toNat + 255) := by simp [BitVec.ofNat_add]
  have hac : carry3 v 0xFF#8 false = decide (v.toNat % 16 ≠ 0) := by
    rw [carry3_eq, decide_eq_decide, BitVec.toNat_ofNat, Bool.toNat_false]
    omega
  rw [Flags.decrement, Flags.setZSP_eq_flagsOf, hw, hac]
  rfl

/-! ## An 8-bit result written to its operand (`30_encoding.md` R72) -/

/-- A register reads as the result written to it. -/
theorem State.operand_writeR8 (s : State) {r : R8} (hr : r ≠ .m) (v : Byte) : (s.writeR8 r v).operand r = v := by
  cases r with
  | m => exact absurd rfl hr
  | b | c | d | e | h | l | a => rfl

/-- The byte an address holds after a store there, in the statements' words (`20_memory.md` R45). -/
theorem State.read_writeByte_self (s : State) (adr : Word) (v : Byte) :
    (s.writeByte adr v).mem.read adr = s.stored adr v := by
  simp [State.writeByte_read, State.stored]

/-- M as it reads after the result is written, where an operand has been read first. -/
theorem State.read_writeR8_afterOperand (s : State) (src : R8) (v : Byte) :
    ((s.afterOperand src).writeR8 .m v).mem.read s.hl = s.stored s.hl v := by
  have hhl : (s.afterOperand src).hl = s.hl := by simp [State.hl]
  change ((s.afterOperand src).writeByte (s.afterOperand src).hl v).mem.read s.hl = _
  rw [hhl, State.read_writeByte_self, State.afterOperand_eq]
  rfl

/-- Reading one operand, writing a byte to another and then the condition bits is all that `writesOperand` says. -/
theorem writesOperand_of_exec {i : Instr} {s : State} {src dst : R8} {w : Byte} {f : Flags}
    (h : exec i s = .next (((s.afterOperand src).writeR8 dst w).setFlags f)) :
    writesOperand i s dst w f (src.bytes s) := by
  refine ⟨_, h, fun hdst => State.operand_writeR8 _ hdst w, ?_, ?_, ?_, ?_⟩
  · rintro rfl
    exact s.read_writeR8_afterOperand src w
  · exact sameRegsBut_writeR8 _ (by simp) dst w
  · exact fun adr hadr => (stores_writeR8_afterOperand s src dst w).sameBytesBut_writable adr
      (fun hmem => hadr (List.mem_filter.mp hmem).1)
  · rw [State.writeR8_frame, State.afterOperand_eq_afterLoads]
    rfl

/-- INR, with the operand and the condition bits as they stand before it (`40_carry_single_register_nop.md` R102). -/
theorem exec_inr (r : R8) (s : State) :
    exec (.inr r) s = .next (((s.afterOperand r).writeR8 r (s.flags.increment (s.operand r)).1).setFlags
      (s.flags.increment (s.operand r)).2) := by
  rw [← State.afterOperand_flags s r]
  rfl

/-- DCR, with the operand and the condition bits as they stand before it (`40_carry_single_register_nop.md` R103). -/
theorem exec_dcr (r : R8) (s : State) :
    exec (.dcr r) s = .next (((s.afterOperand r).writeR8 r (s.flags.decrement (s.operand r)).1).setFlags
      (s.flags.decrement (s.operand r)).2) := by
  rw [← State.afterOperand_flags s r]
  rfl

/-! ## The two steps of DAA in exact arithmetic (`40_carry_single_register_nop.md` R105) -/

/-- Step 1's addition is the 8-bit addition of six. -/
theorem daaStep1_eq_add8 (a : Byte) (f : Flags) :
    daaStep1 a f = if a.toNat % 16 > 9 ∨ f.ac = true then
      ((add8 a 6#8 false).res,
        { f with ac := f.ac || decide (a.toNat % 16 + 6 > 15), cy := f.cy || (add8 a 6#8 false).cy })
    else (a, f) := by
  simp [daaStep1, add8]

/-- Step 1's byte: six is added where the low digit is above 9 or AC is set. -/
theorem daaStep1_toNat (a : Byte) (f : Flags) :
    (daaStep1 a f).1.toNat = (if a.toNat % 16 > 9 ∨ f.ac = true then a.toNat + 6 else a.toNat) % 256 := by
  rw [daaStep1_eq_add8]
  split
  · rw [add8_res]
    rfl
  · exact (Nat.mod_eq_of_lt a.isLt).symm

/-- A carry out of bit 7 in step 1 sets CY (D15; log 20). -/
theorem daaStep1_flags (a : Byte) (f : Flags) :
    (daaStep1 a f).2 = { f with
      cy := decide (f.cy = true ∨ (if a.toNat % 16 > 9 ∨ f.ac = true then a.toNat + 6 else a.toNat) > 255),
      ac := decide (f.ac = true ∨ (a.toNat % 16 > 9 ∨ f.ac = true) ∧ a.toNat % 16 + 6 > 15) } := by
  rw [daaStep1_eq_add8]
  split
  case isTrue hsix => simp [hsix, add8_cy, Bool.decide_or]
  case isFalse hsix =>
    have hlt : ¬ a.toNat > 255 := Nat.not_lt.mpr (Nat.le_of_lt_succ a.isLt)
    simp [hsix, hlt]

/-- Six added to a digit in five bits: the digit left, and the carry out of it. -/
theorem digit_add_six (d : BitVec 4) :
    ((d.zeroExtend 5 + 6#5).extractLsb' 0 4).toNat = (d.toNat + 6) % 16 ∧
      (d.zeroExtend 5 + 6#5).getLsbD 4 = decide (d.toNat + 6 > 15) := by
  revert d
  decide

/-- A byte made of two digits. -/
theorem toNat_append_digits (x y : BitVec 4) : (x ++ y).toNat = x.toNat * 16 + y.toNat := by
  rw [BitVec.toNat_append, ← Nat.shiftLeft_add_eq_or_of_lt y.isLt, Nat.shiftLeft_eq]

theorem toNat_low_digit (a : Byte) : (a.extractLsb' 0 4).toNat = a.toNat % 16 := by simp

theorem toNat_high_digit (a : Byte) : (a.extractLsb' 4 4).toNat = a.toNat / 16 := by
  have ha := a.isLt
  rw [BitVec.extractLsb'_toNat, Nat.shiftRight_eq_div_pow]
  omega

/-- Step 2's byte: six is added to the high digit, modulo 16, where it is above 9 or CY is set. -/
theorem daaStep2_toNat (a : Byte) (f : Flags) :
    (daaStep2 a f).1.toNat =
      (if a.toNat / 16 > 9 ∨ f.cy = true then a.toNat / 16 + 6 else a.toNat / 16) % 16 * 16 + a.toNat % 16 := by
  rw [daaStep2, toNat_high_digit]
  split
  · dsimp only
    rw [toNat_append_digits, (digit_add_six _).1, toNat_high_digit, toNat_low_digit]
  · have ha := a.isLt
    dsimp only
    omega

/-- A carry out of the high digit in step 2 sets CY. -/
theorem daaStep2_flags (a : Byte) (f : Flags) :
    (daaStep2 a f).2 = { f with
      cy := decide (f.cy = true ∨
        (if a.toNat / 16 > 9 ∨ f.cy = true then a.toNat / 16 + 6 else a.toNat / 16) > 15) } := by
  rw [daaStep2, toNat_high_digit]
  split
  case isTrue hsixty =>
    dsimp only
    rw [(digit_add_six _).2, toNat_high_digit]
    simp [Bool.decide_or]
  case isFalse hsixty =>
    have ha := a.isLt
    have hlt : ¬ a.toNat / 16 > 15 := by omega
    simp [hlt]

theorem daa_fst (a : Byte) (f : Flags) : (daa a f).1 = (daaStep2 (daaStep1 a f).1 (daaStep1 a f).2).1 := rfl

theorem daa_snd (a : Byte) (f : Flags) :
    (daa a f).2 = (daaStep2 (daaStep1 a f).1 (daaStep1 a f).2).2.setZSP (daa a f).1 := rfl

/-! ## The decimal sum, digit by digit -/

/-- The sum of the low digits, of which the decimal sum keeps `lowDigitSum % 10`. -/
def lowDigitSum (x y : Byte) (c : Bool) : Nat := x.toNat % 16 + y.toNat % 16 + c.toNat

/-- The sum of the high digits with the decimal carry of the low ones. -/
def highDigitSum (x y : Byte) (c : Bool) : Nat := x.toNat / 16 + y.toNat / 16 + lowDigitSum x y c / 10

theorem decimalValue_add (x y : Byte) (c : Bool) :
    decimalValue x + decimalValue y + c.toNat = 10 * highDigitSum x y c + lowDigitSum x y c % 10 := by
  simp only [decimalValue, highDigitSum, lowDigitSum]
  omega

theorem lowDigitSum_lt {x y : Byte} (hx : isDecimal x) (hy : isDecimal y) (c : Bool) : lowDigitSum x y c < 20 := by
  obtain ⟨-, hxlow⟩ := hx
  obtain ⟨-, hylow⟩ := hy
  have hc := c.toNat_le
  unfold lowDigitSum
  omega

theorem highDigitSum_lt {x y : Byte} (hx : isDecimal x) (hy : isDecimal y) (c : Bool) : highDigitSum x y c < 20 := by
  have hlow := lowDigitSum_lt hx hy c
  obtain ⟨hxhigh, -⟩ := hx
  obtain ⟨hyhigh, -⟩ := hy
  unfold highDigitSum
  omega

/-- After an addition of decimal bytes the low digit is above 9 or AC is set exactly where the low digits' sum is above 9. -/
theorem six_iff_lowDigitSum {x y : Byte} (hx : isDecimal x) (hy : isDecimal y) (c : Bool) :
    ((add8 x y c).res.toNat % 16 > 9 ∨ (add8 x y c).flags.ac = true) ↔ lowDigitSum x y c > 9 := by
  obtain ⟨-, hxlow⟩ := hx
  obtain ⟨-, hylow⟩ := hy
  have hac : (add8 x y c).flags.ac = carry3 x y c := rfl
  have hc := c.toNat_le
  rw [add8_res, hac, carry3_eq, decide_eq_true_eq, lowDigitSum]
  omega

/-- Step 1 leaves the decimal sum's low digit, the high digits' sum above it, and what that sum has of bit 8 in CY. -/
theorem daaStep1_add8 {x y : Byte} (hx : isDecimal x) (hy : isDecimal y) (c : Bool) :
    (daaStep1 (add8 x y c).res (add8 x y c).flags).1.toNat = (16 * highDigitSum x y c + lowDigitSum x y c % 10) % 256 ∧
      (daaStep1 (add8 x y c).res (add8 x y c).flags).2.cy =
        decide (16 * highDigitSum x y c + lowDigitSum x y c % 10 > 255) := by
  have hcy : (add8 x y c).flags.cy = true ↔ x.toNat + y.toNat + c.toNat > 255 := by
    change (add8 x y c).cy = true ↔ _
    rw [add8_cy, decide_eq_true_eq]
  have hlow := lowDigitSum_lt hx hy c
  have hsum : x.toNat + y.toNat + c.toNat = 16 * (x.toNat / 16 + y.toNat / 16) + lowDigitSum x y c := by
    unfold lowDigitSum
    omega
  rw [daaStep1_toNat, daaStep1_flags, decide_eq_decide]
  simp only [six_iff_lowDigitSum hx hy]
  simp only [hcy, add8_res, hsum, highDigitSum]
  split <;> omega

/-- Step 2 leaves the high digit of a decimal sum, and in CY the carry out of it. -/
theorem daaStep2_digits {a : Byte} {f : Flags} {high low : Nat} (hhigh : high < 20) (hlow : low < 10)
    (ha : a.toNat = (16 * high + low) % 256) (hcy : f.cy = decide (16 * high + low > 255)) :
    (daaStep2 a f).1.toNat = 16 * (high % 10) + low ∧ (daaStep2 a f).2.cy = decide (high ≥ 10) := by
  have hcy : f.cy = true ↔ 16 * high + low > 255 := by rw [hcy, decide_eq_true_eq]
  have hsixty : (a.toNat / 16 > 9 ∨ f.cy = true) ↔ high ≥ 10 := by
    rw [hcy, ha]
    omega
  rw [daaStep2_toNat, daaStep2_flags, decide_eq_decide]
  simp only [hsixty]
  rw [hcy, ha]
  split <;> omega

/-- DAA after an addition of decimal bytes: the digits of the decimal sum, and its carry. -/
theorem daa_add8 {x y : Byte} (hx : isDecimal x) (hy : isDecimal y) (c : Bool) :
    (daa (add8 x y c).res (add8 x y c).flags).1.toNat = 16 * (highDigitSum x y c % 10) + lowDigitSum x y c % 10 ∧
      (daa (add8 x y c).res (add8 x y c).flags).2.cy = decide (highDigitSum x y c ≥ 10) :=
  have ⟨hres, hcy⟩ := daaStep1_add8 hx hy c
  daaStep2_digits (highDigitSum_lt hx hy c) (Nat.mod_lt _ (by decide)) hres hcy

/-- ADC, with the operand and A as they stand before it (`42_accumulator_alu.md` R134). -/
theorem exec_adc (r : R8) (s : State) :
    exec (.adc r) s = .next ((s.afterOperand r).accumulate (add8 s.regs.a (s.operand r) s.flags.cy)) := by
  change Host.Outcome.next ((s.afterOperand r).accumulate
    (add8 (s.afterOperand r).regs.a (s.operand r) (s.afterOperand r).flags.cy)) = _
  rw [State.afterOperand_regs, State.afterOperand_flags]

/-- DAA, of A and the condition bits (`40_carry_single_register_nop.md` R105). -/
theorem exec_daa (s : State) :
    exec .daa s = .next ((s.setA (daa s.regs.a s.flags).1).setFlags (daa s.regs.a s.flags).2) := rfl

/-! ## The statements -/

/-- Settles O13: the digits and the carry `daa_add8` gives are those of the decimal sum. -/
theorem decimalAddition : Obligations.DecimalAddition := by
  intro s r hx hy
  refine ⟨_, _, exec_adc r s, exec_daa _, ?_⟩
  have hlow : lowDigitSum s.regs.a (s.operand r) s.flags.cy % 10 < 10 := Nat.mod_lt _ (by decide)
  obtain ⟨hres, hcy⟩ := daa_add8 hx hy s.flags.cy
  simp only [State.accumulate_regs, State.accumulate_flags, State.setFlags_regs, State.setFlags_flags, State.setA_regs]
  rw [decimalValue_add, hcy, decide_eq_decide, decimalValue, isDecimal, hres]
  omega

/-- Settles O12: step 2's equations on what step 1's equations leave. -/
theorem decimalAdjust : Obligations.DecimalAdjust := by
  intro s
  refine ⟨(daa s.regs.a s.flags).1, ?_, ?_⟩
  · simp only [daa_fst, daaStep2_toNat, daaStep1_toNat, daaStep1_flags, decide_eq_true_eq]
    rw [Nat.mod_mod_of_dvd _ (by decide)]
  · rw [exec_daa, daa_snd, Flags.setZSP_eq_flagsOf]
    simp only [daaStep2_flags, daaStep1_toNat, daaStep1_flags, decide_eq_true_eq]
    rfl

/-- Settles O10: INR's result and condition bits exactly, written to its operand. -/
theorem incrementOperand : Obligations.IncrementOperand := by
  intro s r
  apply writesOperand_of_exec
  rw [exec_inr, Flags.increment_eq]

/-- Settles O11: DCR's result and condition bits exactly, written to its operand. -/
theorem decrementOperand : Obligations.DecrementOperand := by
  intro s r
  apply writesOperand_of_exec
  rw [exec_dcr, Flags.decrement_eq]

/-- Settles O8: each part is the model's definition. -/
theorem carryInstructions : Obligations.CarryInstructions :=
  fun _ => ⟨rfl, rfl, rfl, rfl, rfl, rfl⟩

/-- Settles O9: the complement taken bit by bit. -/
theorem complementAndNop : Obligations.ComplementAndNop := by
  intro s
  refine ⟨⟨~~~s.regs.a, fun k hk => ?_, rfl⟩, rfl⟩
  simp [hk]

end Sys2Proof.Machine

/-! PROOFS of the family `41_data_transfer.md`: MOV, and the stores and loads of A by STAX, LDAX, STA and LDA.

STAX and STA are one store of A, LDAX and LDA one load of A, at addresses found differently: each statement is the law of the
shared operation, taken at its three addresses. -/

namespace Sys2Proof.Machine

/-- Stores reach no byte but those at their addresses (`20_memory.md` R45). -/
theorem Stores.sameBytesBut {adrs : List Word} {s t : State} (hs : Stores adrs s t) : sameBytesBut adrs s t :=
  fun adr hadr => hs.sameBytesBut_writable adr (fun hmem => hadr (List.mem_filter.mp hmem).1)

/-- MOV, for every pair that has an encoding (`41_data_transfer.md` R120). -/
theorem exec_mov {dst src : R8} (h : ¬ (dst = .m ∧ src = .m)) (s : State) :
    exec (.mov dst src) s = .next ((s.afterOperand src).writeR8 dst (s.operand src)) :=
  if_neg h

/-- The model's store of one byte is all that `storesByte` says. -/
theorem storesByte_of_exec {i : Instr} {s : State} {adr : Word} {v : Byte} (h : exec i s = .next (s.writeByte adr v)) :
    storesByte i s adr v :=
  ⟨_, h, s.read_writeByte_self adr v, (stores_writeByte s adr v).sameBytesBut, s.writeByte_frame adr v⟩

/-- A load of A is the byte of the address in A and the free values the read takes (`20_memory.md` R44). -/
theorem exec_eq_of_load {i : Instr} {s : State} {adr : Word}
    (h : exec i s = .next ((s.afterRead adr).setA (s.peek adr))) :
    exec i s = .next { s.afterLoads [adr] with regs := { s.regs with a := s.byteAt adr } } := by
  rw [h, State.afterRead_eq_afterLoads, State.peek_eq_byteAt]
  rfl

/-- Settles O14: MOV writes the operand it read, and the condition bits it leaves are those of before. -/
theorem moveOperand : Obligations.MoveOperand := by
  intro s dst src hpair
  have hflags : ((s.afterOperand src).writeR8 dst (s.operand src)).flags = s.flags := by simp
  apply writesOperand_of_exec
  rw [exec_mov hpair, ← hflags]
  rfl

/-- Settles O16: one store of A, at B:C, at D:E or at the address in the instruction. -/
theorem storeAccumulator : Obligations.StoreAccumulator :=
  fun _ _ => ⟨storesByte_of_exec rfl, storesByte_of_exec rfl, storesByte_of_exec rfl⟩

/-- Settles O17: one load of A, from B:C, from D:E or from the address in the instruction. -/
theorem loadAccumulator : Obligations.LoadAccumulator :=
  fun _ _ => ⟨exec_eq_of_load rfl, exec_eq_of_load rfl, exec_eq_of_load rfl⟩

end Sys2Proof.Machine

/-! PROOFS of the family `42_accumulator_alu.md`: the sums, differences, comparisons and bitwise combinations of A with an
operand.

A layer first: the condition bits of an 8-bit result, and the subtraction as the addition of the complement (D16, log 21) in
exact arithmetic. Then one law for each of the model's four shapes, `adds_of_exec`, `subtracts_of_exec`, `compares_of_exec` and
`combines_of_exec`: they ask only that the operand has been read and that reading it left the registers. -/

namespace Sys2Proof.Machine

/-! ## The condition bits of a result (`10_state.md` R33) -/

/-- An addition or subtraction gives S, Z and P from its result byte, CY and AC from its carries. -/
theorem AluResult.flags_eq_flagsOf (r : AluResult) : r.flags = flagsOf r.res r.cy r.ac :=
  Flags.setZSP_eq_flagsOf ⟨r.cy, r.ac, false, false, false⟩ r.res

/-- A logical operation resets CY and leaves AC (`42_accumulator_alu.md` R137; log 25). -/
theorem Flags.logical_eq_flagsOf (f : Flags) (res : Byte) : f.logical res = flagsOf res false f.ac := by
  rw [Flags.logical, Flags.setZSP_eq_flagsOf]
  rfl

/-! ## Addition and subtraction in exact arithmetic (`42_accumulator_alu.md` R131, R132) -/

/-- The condition bits of an addition. -/
theorem add8_flags (x y : Byte) (c : Bool) :
    (add8 x y c).flags = flagsOf (add8 x y c).res (decide (x.toNat + y.toNat + c.toNat > 255))
      (decide (x.toNat % 16 + y.toNat % 16 + c.toNat > 15)) := by
  have hac : (add8 x y c).ac = carry3 x y c := rfl
  rw [AluResult.flags_eq_flagsOf, add8_cy, hac, carry3_eq]

/-- The complement of the borrow is its distance from one. -/
theorem toNat_not_borrow (b : Bool) : (!b).toNat = 1 - b.toNat := by
  cases b <;> rfl

/-- The result byte of a subtraction: the exact difference modulo 256. -/
theorem sub8_res (x y : Byte) (b : Bool) : (sub8 x y b).res.toNat = (x.toNat + 256 - y.toNat - b.toNat) % 256 := by
  have hy := y.isLt
  have hb := b.toNat_le
  have hadd : (sub8 x y b).res = (add8 x (~~~y) (!b)).res := rfl
  rw [hadd, add8_res, BitVec.toNat_not, toNat_not_borrow]
  omega

/-- CY after a subtraction is the borrow: the addition of the complement has no carry out of bit 7. -/
theorem sub8_cy (x y : Byte) (b : Bool) : (sub8 x y b).cy = decide (x.toNat < y.toNat + b.toNat) := by
  have hy := y.isLt
  have hb := b.toNat_le
  have hadd : (sub8 x y b).cy = !(add8 x (~~~y) (!b)).cy := rfl
  rw [hadd, add8_cy, BitVec.toNat_not, toNat_not_borrow, ← decide_not, decide_eq_decide]
  omega

/-- AC after a subtraction is set where there is no borrow from bit 4. -/
theorem sub8_ac (x y : Byte) (b : Bool) :
    (sub8 x y b).ac = decide (y.toNat % 16 + b.toNat ≤ x.toNat % 16) := by
  have hy := y.isLt
  have hb := b.toNat_le
  have hcarry : (sub8 x y b).ac = carry3 x (~~~y) (!b) := rfl
  rw [hcarry, carry3_eq, BitVec.toNat_not, toNat_not_borrow, decide_eq_decide]
  omega

/-- The condition bits of a subtraction. -/
theorem sub8_flags (x y : Byte) (b : Bool) :
    (sub8 x y b).flags = borrowFlags (sub8 x y b).res x.toNat y.toNat b.toNat := by
  rw [AluResult.flags_eq_flagsOf, sub8_cy, sub8_ac]
  rfl

/-! ## The shapes of the instructions

`u` is the state once the operand `v` has been read: `s` itself for a byte in the instruction. -/

section Shapes

variable {i : Instr} {s u : State} {v : Byte}

/-- Accumulating the model's sum is all that `adds` says. -/
theorem adds_of_exec {c : Bool} (hregs : u.regs = s.regs) (h : exec i s = .next (u.accumulate (add8 u.regs.a v c))) :
    adds i s u s.regs.a.toNat v.toNat c.toNat := by
  rw [adds, ← hregs]
  refine ⟨(add8 u.regs.a v c).res, add8_res .., ?_⟩
  rw [h, ← add8_flags]
  rfl

/-- Accumulating the model's difference is all that `subtracts` says. -/
theorem subtracts_of_exec {b : Bool} (hregs : u.regs = s.regs)
    (h : exec i s = .next (u.accumulate (sub8 u.regs.a v b))) :
    subtracts i s u s.regs.a.toNat v.toNat b.toNat := by
  rw [subtracts, ← hregs]
  refine ⟨(sub8 u.regs.a v b).res, sub8_res .., ?_⟩
  rw [h, ← sub8_flags]
  rfl

/-- The condition bits of the model's difference, A not written, are all that `compares` says. -/
theorem compares_of_exec (hregs : u.regs = s.regs) (h : exec i s = .next (u.compare (sub8 u.regs.a v false))) :
    compares i s u s.regs.a.toNat v.toNat := by
  rw [compares, ← hregs]
  refine ⟨(sub8 u.regs.a v false).res, sub8_res .., ?_⟩
  rw [h, State.compare, sub8_flags]
  rfl

/-- The model's logical shape, on a result that is `op` bit by bit, is all that `combines` says. -/
theorem combines_of_exec {op : Bool → Bool → Bool} {res : Byte} (hregs : u.regs = s.regs) (hflags : u.flags = s.flags)
    (h : exec i s = .next (u.logical res)) (hbits : ∀ k, res.getLsbD k = op (u.regs.a.getLsbD k) (v.getLsbD k)) :
    combines op i s u v := by
  rw [combines, ← hregs, ← hflags]
  refine ⟨res, fun k _ => hbits k, ?_⟩
  rw [h, ← Flags.logical_eq_flagsOf]
  rfl

end Shapes

/-! ## The statements

The operand is read first, and every state is named by that read: `State.afterOperand`. -/

/-- Settles O19: both accumulate a sum; the carry ADC takes is the one from before the operand is read. -/
theorem addOperand : Obligations.AddOperand := by
  intro s r
  have hregs := s.afterOperand_regs r
  rw [← State.afterOperand_eq_afterLoads, ← State.afterOperand_flags s r]
  exact ⟨adds_of_exec (c := false) hregs rfl, adds_of_exec hregs rfl⟩

/-- Settles O20: both accumulate a difference; the borrow SBB takes is the carry bit from before the operand is read. -/
theorem subtractOperand : Obligations.SubtractOperand := by
  intro s r
  have hregs := s.afterOperand_regs r
  rw [← State.afterOperand_eq_afterLoads, ← State.afterOperand_flags s r]
  exact ⟨subtracts_of_exec (b := false) hregs rfl, subtracts_of_exec hregs rfl⟩

/-- Settles O21: both keep a difference's condition bits alone, CPI without reading an operand. -/
theorem compareOperand : Obligations.CompareOperand := by
  intro s r data
  rw [← State.afterOperand_eq_afterLoads]
  exact ⟨compares_of_exec (s.afterOperand_regs r) rfl, compares_of_exec rfl rfl⟩

/-- Settles O22: the three share the logical shape, each with its own bit operation. -/
theorem logicalOperand : Obligations.LogicalOperand := by
  intro s r
  have hregs := s.afterOperand_regs r
  have hflags := s.afterOperand_flags r
  rw [← State.afterOperand_eq_afterLoads]
  exact ⟨combines_of_exec hregs hflags rfl fun _ => BitVec.getLsbD_and,
    combines_of_exec hregs hflags rfl fun _ => BitVec.getLsbD_xor,
    combines_of_exec hregs hflags rfl fun _ => BitVec.getLsbD_or⟩

end Sys2Proof.Machine

/-! PROOFS of the family `43_rotate.md`: RLC, RRC, RAL and RAR.

A rotate shifts A by one place and takes one bit in at the free end. The two shifts come first, in exact arithmetic and as
inverses of each other; RLC and RRC take in the bit that leaves A, RAL and RAR the carry bit. -/

namespace Sys2Proof.Machine

/-! ## A byte shifted by one place -/

/-- `a[6:0] : b`, as RLC and RAL write A (`43_rotate.md` R150, R152). -/
def shiftLeftIn (a : Byte) (b : BitVec 1) : Byte := a.extractLsb' 0 7 ++ b

/-- `b : a[7:1]`, as RRC and RAR write A (`43_rotate.md` R151, R153). -/
def shiftRightIn (b : BitVec 1) (a : Byte) : Byte := b ++ a.extractLsb' 1 7

theorem shiftLeftIn_toNat (a : Byte) (b : BitVec 1) : (shiftLeftIn a b).toNat = 2 * a.toNat % 256 + b.toNat := by
  have hb := b.isLt
  rw [shiftLeftIn, BitVec.toNat_append, ← Nat.shiftLeft_add_eq_or_of_lt hb, Nat.shiftLeft_eq, BitVec.extractLsb'_toNat]
  simp only [Nat.shiftRight_zero]
  omega

theorem shiftRightIn_toNat (b : BitVec 1) (a : Byte) : (shiftRightIn b a).toNat = a.toNat / 2 + 128 * b.toNat := by
  have ha := a.isLt
  have hlow : (a.extractLsb' 1 7).toNat = a.toNat / 2 := by
    rw [BitVec.extractLsb'_toNat, Nat.shiftRight_eq_div_pow]
    omega
  rw [shiftRightIn, BitVec.toNat_append, ← Nat.shiftLeft_add_eq_or_of_lt (a.extractLsb' 1 7).isLt, Nat.shiftLeft_eq, hlow]
  omega

/-- The bit that leaves on the left. -/
theorem getLsbD_seven_eq_decide (a : Byte) : a.getLsbD 7 = decide (a.toNat ≥ 128) := BitVec.msb_eq_decide a

/-- The bit that leaves on the right. -/
theorem getLsbD_zero_eq_decide (a : Byte) : a.getLsbD 0 = decide (a.toNat % 2 = 1) := by
  simp [BitVec.getLsbD, Nat.testBit_zero]

theorem toNat_getLsbD_seven (a : Byte) : (a.getLsbD 7).toNat = a.toNat / 128 := by
  have ha := a.isLt
  rw [BitVec.getLsbD, Nat.toNat_testBit]
  omega

theorem toNat_getLsbD_zero (a : Byte) : (a.getLsbD 0).toNat = a.toNat % 2 := by
  rw [BitVec.getLsbD, Nat.toNat_testBit, Nat.pow_zero, Nat.div_one]

theorem toNat_high_bit (a : Byte) : (a.extractLsb' 7 1).toNat = a.toNat / 128 := by
  have ha := a.isLt
  rw [BitVec.extractLsb'_toNat, Nat.shiftRight_eq_div_pow]
  omega

theorem toNat_low_bit (a : Byte) : (a.extractLsb' 0 1).toNat = a.toNat % 2 := by simp

/-- Shifting right takes back a shift to the left, where the bit that left comes in. -/
theorem shiftRightIn_shiftLeftIn (a : Byte) (b : BitVec 1) :
    shiftRightIn (BitVec.ofBool (a.getLsbD 7)) (shiftLeftIn a b) = a := by
  have ha := a.isLt
  have hb := b.isLt
  apply BitVec.eq_of_toNat_eq
  rw [shiftRightIn_toNat, shiftLeftIn_toNat, BitVec.toNat_ofBool, toNat_getLsbD_seven]
  omega

/-- Shifting left takes back a shift to the right, where the bit that left comes in. -/
theorem shiftLeftIn_shiftRightIn (a : Byte) (b : BitVec 1) :
    shiftLeftIn (shiftRightIn b a) (BitVec.ofBool (a.getLsbD 0)) = a := by
  have ha := a.isLt
  have hb := b.isLt
  apply BitVec.eq_of_toNat_eq
  rw [shiftLeftIn_toNat, shiftRightIn_toNat, BitVec.toNat_ofBool, toNat_getLsbD_zero]
  omega

/-- The bit a shift to the left takes in is the next to leave on the right. -/
theorem getLsbD_zero_shiftLeftIn (a : Byte) (c : Bool) : (shiftLeftIn a (BitVec.ofBool c)).getLsbD 0 = c := by
  have hc := c.toNat_le
  have hbit : (2 * a.toNat % 256 + c.toNat) % 2 = c.toNat := by omega
  simp only [getLsbD_zero_eq_decide, shiftLeftIn_toNat, BitVec.toNat_ofBool, hbit, Bool.toNat_eq_one, Bool.decide_eq_true]

/-- The bit a shift to the right takes in is the next to leave on the left. -/
theorem getLsbD_seven_shiftRightIn (a : Byte) (c : Bool) : (shiftRightIn (BitVec.ofBool c) a).getLsbD 7 = c := by
  have ha := a.isLt
  have hbit : a.toNat / 2 + 128 * c.toNat ≥ 128 ↔ c.toNat = 1 := by
    have hc := c.toNat_le
    omega
  simp only [getLsbD_seven_eq_decide, shiftRightIn_toNat, BitVec.toNat_ofBool, hbit, Bool.toNat_eq_one, Bool.decide_eq_true]

/-! ## The four instructions by the two shifts -/

/-- RLC takes in the high bit of A (`43_rotate.md` R150). -/
theorem exec_rlc (s : State) :
    exec .rlc s = .next (s.rotate (shiftLeftIn s.regs.a (s.regs.a.extractLsb' 7 1)) (s.regs.a.getLsbD 7)) := rfl

/-- RRC takes in the low bit of A (`43_rotate.md` R151). -/
theorem exec_rrc (s : State) :
    exec .rrc s = .next (s.rotate (shiftRightIn (s.regs.a.extractLsb' 0 1) s.regs.a) (s.regs.a.getLsbD 0)) := rfl

/-- RAL takes in the carry bit (`43_rotate.md` R152). -/
theorem exec_ral (s : State) :
    exec .ral s = .next (s.rotate (shiftLeftIn s.regs.a (BitVec.ofBool s.flags.cy)) (s.regs.a.getLsbD 7)) := rfl

/-- RAR takes in the carry bit (`43_rotate.md` R153). -/
theorem exec_rar (s : State) :
    exec .rar s = .next (s.rotate (shiftRightIn (BitVec.ofBool s.flags.cy) s.regs.a) (s.regs.a.getLsbD 0)) := rfl

/-- The state a rotate leaves, with its byte and its carry in exact arithmetic, is all that the statement says of one
instruction. -/
theorem exists_turned_of_exec {i : Instr} {s : State} {v : Byte} {bit c : Bool} {n : Nat}
    (h : exec i s = .next (s.rotate v bit)) (hv : v.toNat = n) (hbit : bit = c) :
    ∃ res : Byte, res.toNat = n ∧
      exec i s = .next { s with regs := { s.regs with a := res }, flags := { s.flags with cy := c } } :=
  ⟨v, hv, hbit ▸ h⟩

/-- A second rotate replaces what the first wrote. -/
theorem State.rotate_rotate (s : State) (v w : Byte) (c d : Bool) : (s.rotate v c).rotate w d = s.rotate w d := rfl

/-- Writing back A and CY as they stand leaves the state. -/
theorem State.rotate_self (s : State) : s.rotate s.regs.a s.flags.cy = s := rfl

/-! ## The statements -/

/-- Settles O25: each rotate by the value of its shift and the bit that leaves A. -/
theorem rotateAccumulator : Obligations.RotateAccumulator := by
  intro s
  have hleft := getLsbD_seven_eq_decide s.regs.a
  have hright := getLsbD_zero_eq_decide s.regs.a
  refine ⟨exists_turned_of_exec (exec_rlc s) ?_ hleft, exists_turned_of_exec (exec_rrc s) ?_ hright,
    exists_turned_of_exec (exec_ral s) ?_ hleft, exists_turned_of_exec (exec_rar s) ?_ hright,
    rfl, rfl, rfl, rfl, ?_⟩
  · rw [shiftLeftIn_toNat, toNat_high_bit]
  · rw [shiftRightIn_toNat, toNat_low_bit]
  · rw [shiftLeftIn_toNat, BitVec.toNat_ofBool]
  · rw [shiftRightIn_toNat, BitVec.toNat_ofBool]
  · simp [Instr.timePeriods]

/-- Settles O26: the second shift takes in, from CY, the bit that left A in the first, and gives CY back. -/
theorem rotatesThroughCarryUndo : Obligations.RotatesThroughCarryUndo := by
  intro s
  refine ⟨⟨_, exec_ral s, ?_⟩, ⟨_, exec_rar s, ?_⟩⟩
  · rw [exec_rar, State.rotate_rotate, State.rotate_regs, State.rotate_flags, shiftRightIn_shiftLeftIn,
      getLsbD_zero_shiftLeftIn, State.rotate_self]
  · rw [exec_ral, State.rotate_rotate, State.rotate_regs, State.rotate_flags, shiftLeftIn_shiftRightIn,
      getLsbD_seven_shiftRightIn, State.rotate_self]

end Sys2Proof.Machine

/-! PROOFS of the family `44_register_pair.md`: PUSH and POP, DAD, INX and DCX, XCHG, XTHL and SPHL.

A layer first: a 16-bit read in the statements' words, what two stores leave at two addresses, and a pop that takes back what a
push stored. Each instruction then has an equation in these terms, and its statement is that equation taken at every pair. -/

namespace Sys2Proof.Machine

/-! ## 16-bit reads and stores (`20_memory.md` R46, R47) -/

section Accesses

variable (s : State)

/-- A 16-bit read: the two bytes, the high one read second, and the free values both take. -/
theorem State.readWord_eq_afterLoads (adr : Word) :
    s.readWord adr = (s.byteAfter adr ++ s.byteAt adr, s.afterLoads [adr, adr + 1#16]) := by
  rw [State.readWord_eq, State.afterRead_afterRead, State.peek_eq_byteAt, State.peek_eq_byteAt,
    State.afterRead_eq_afterLoads, State.byteAt_afterLoads]
  rfl

/-- A 16-bit store of two bytes put together: the low byte first, then the high one above it. -/
theorem State.writeWord_append (adr : Word) (high low : Byte) :
    s.writeWord adr (high ++ low) = (s.writeByte adr low).writeByte (adr + 1#16) high := by
  obtain ⟨hhigh, hlow⟩ := append_split high low
  rw [State.writeWord, hhigh, hlow]

/-- Two stores to different addresses do not disturb each other (`20_memory.md` R45). -/
theorem State.read_writeByte_writeByte {p q : Word} (hne : p ≠ q) (v w : Byte) :
    ((s.writeByte p v).writeByte q w).mem.read p = s.stored p v ∧
      ((s.writeByte p v).writeByte q w).mem.read q = s.stored q w := by
  constructor
  · rw [State.writeByte_read, if_neg fun h => hne h.1, State.read_writeByte_self]
  · have hq : (s.writeByte p v).mem.read q = s.mem.read q := by
      rw [State.writeByte_read, if_neg fun h => hne h.1.symm]
    rw [State.read_writeByte_self, State.stored, State.kind_writeByte, hq, State.stored]

/-- The two addresses of a 16-bit access differ, at the end of the address space too. -/
theorem adr_ne_add_one (adr : Word) : adr ≠ adr + 1#16 := by
  bv_omega

/-! The stack (`20_memory.md` R50, R51), in the same words. -/

/-- A pop: the 16-bit read at SP, then SP two more (`20_memory.md` R51). -/
theorem State.pop16_eq_afterLoads :
    s.pop16 = (s.byteAfter s.sp ++ s.byteAt s.sp, { s.afterLoads [s.sp, s.sp + 1#16] with sp := s.sp + 2#16 }) := by
  rw [State.pop16, State.readWord_eq_afterLoads]

/-- What the two addresses of a push hold after it (`20_memory.md` R50). -/
theorem State.pushBytes_stored (first second : Byte) :
    (s.pushBytes first second).mem.read (s.sp - 1#16) = s.stored (s.sp - 1#16) first ∧
      (s.pushBytes first second).mem.read (s.sp - 2#16) = s.stored (s.sp - 2#16) second :=
  s.read_writeByte_writeByte (sp_sub_ne s.sp) first second

/-- A pop takes back what a push stored in read/write memory, and SP is as before both (`20_memory.md` R50, R51). -/
theorem State.pop16_pushBytes {s : State} (first second : Byte) (hfirst : s.kind (s.sp - 1#16) = .rw)
    (hsecond : s.kind (s.sp - 2#16) = .rw) :
    (s.pushBytes first second).pop16 = (first ++ second, { s with mem := (s.pushBytes first second).mem }) := by
  have hkind (adr : Word) : (s.pushBytes first second).kind adr = s.kind adr :=
    State.kind_congr (by rw [State.pushBytes_frame]) adr
  have hsp : (s.pushBytes first second).sp = s.sp - 2#16 := rfl
  have habove : s.sp - 2#16 + 1#16 = s.sp - 1#16 := by bv_omega
  have hback : s.sp - 2#16 + 2#16 = s.sp := by bv_omega
  obtain ⟨hreadFirst, hreadSecond⟩ := State.pushBytes_read first second hfirst hsecond
  rw [State.pop16_of_present, hsp, habove, hback, hreadFirst, hreadSecond, State.pushBytes_frame]
  · rw [hkind, hsp, hsecond]
    decide
  · rw [hkind, hsp, habove, hfirst]
    decide

end Accesses

/-! ## PUSH and POP (`44_register_pair.md` R160, R161) -/

/-- The condition-bit byte as a sum of its places (`10_state.md` R27, D9; log 13). -/
theorem Flags.toByte_eq_ofNat (f : Flags) :
    f.toByte = BitVec.ofNat 8 (128 * f.s.toNat + 64 * f.z.toNat + 16 * f.ac.toNat + 4 * f.p.toNat + 2 + f.cy.toNat) := by
  obtain ⟨cy, ac, s, z, p⟩ := f
  revert cy ac s z p
  decide

/-- The condition bits of a byte, each by its place (`10_state.md` R27, D9; log 13). -/
theorem Flags.ofByte_eq_decide (v : Byte) :
    Flags.ofByte v =
      { s := decide (v.toNat / 128 % 2 = 1), z := decide (v.toNat / 64 % 2 = 1), ac := decide (v.toNat / 16 % 2 = 1),
        p := decide (v.toNat / 4 % 2 = 1), cy := decide (v.toNat % 2 = 1) } := by
  simp [Flags.ofByte, BitVec.getLsbD, Nat.testBit_eq_decide_div_mod_eq]

/-- A push of two bytes, the program counter then as given, is all that `pushes` says. -/
theorem pushes_of_exec {i : Instr} {s : State} {first second : Byte} {pc : Word}
    (h : exec i s = .next { s.pushBytes first second with pc := pc }) : pushes i s first second pc := by
  obtain ⟨hfirst, hsecond⟩ := s.pushBytes_stored first second
  refine ⟨_, h, hfirst, hsecond, (stores_pushBytes s first second).sameBytesBut, ?_⟩
  rw [State.pushBytes_frame]

/-- PUSH is a push of the pair's two bytes that leaves the program counter (R160). -/
theorem pushes_push (rp : StackPair) (s : State) :
    pushes (.push rp) s (s.stackPair rp).1 (s.stackPair rp).2 s.pc := by
  apply pushes_of_exec
  rw [← s.pushBytes_pc (s.stackPair rp).1 (s.stackPair rp).2]
  rfl

/-- POP, with the two bytes at the stack's top (R161). -/
theorem exec_pop (rp : StackPair) (s : State) :
    exec (.pop rp) s = .next (State.setStackPair { s.afterLoads [s.sp, s.sp + 1#16] with sp := s.sp + 2#16 } rp
      (s.byteAfter s.sp) (s.byteAt s.sp)) := by
  obtain ⟨hfirst, hsecond⟩ := append_split (s.byteAfter s.sp) (s.byteAt s.sp)
  change execPop rp s = _
  rw [execPop, State.pop16_eq_afterLoads]
  simp only [hfirst, hsecond]

/-- POP takes back what PUSH of the same pair saved, PSW's condition bits with it (`10_state.md` R27). -/
theorem State.setStackPair_stackPair (s : State) (rp : StackPair) (m : Memory) :
    State.setStackPair { s with mem := m } rp (s.stackPair rp).1 (s.stackPair rp).2 = { s with mem := m } := by
  cases rp with
  | b | d | h => rfl
  | psw =>
    change { s with mem := m, flags := Flags.ofByte s.flags.toByte } = _
    rw [Flags.ofByte_toByte]

/-- POP after PUSH of the same pair, on a stack in read/write memory: only memory is not as before (R160, R161). -/
theorem exec_pop_pushBytes {s : State} (rp : StackPair) (hfirst : s.kind (s.sp - 1#16) = .rw)
    (hsecond : s.kind (s.sp - 2#16) = .rw) :
    exec (.pop rp) (s.pushBytes (s.stackPair rp).1 (s.stackPair rp).2) =
      .next { s with mem := (s.pushBytes (s.stackPair rp).1 (s.stackPair rp).2).mem } := by
  obtain ⟨hhigh, hlow⟩ := append_split (s.stackPair rp).1 (s.stackPair rp).2
  change execPop rp _ = _
  rw [execPop, State.pop16_pushBytes _ _ hfirst hsecond]
  simp only [hhigh, hlow, State.setStackPair_stackPair]

/-! ## 16-bit arithmetic (`44_register_pair.md` R163 to R165) -/

/-- The 17-bit sum of two words: its low 16 bits are the sum modulo 2^16. -/
theorem extractLsb'_sum17 (x y : Word) : (x.zeroExtend 17 + y.zeroExtend 17).extractLsb' 0 16 = x + y := by
  apply BitVec.eq_of_toNat_eq
  simp [BitVec.toNat_add]

/-- The 17-bit sum of two words: its bit 16 is the carry. -/
theorem getLsbD_sum17 (x y : Word) :
    (x.zeroExtend 17 + y.zeroExtend 17).getLsbD 16 = decide (x.toNat + y.toNat > 65535) := by
  have hx := x.isLt
  have hy := y.isLt
  have hcarry (t : BitVec 17) : t.getLsbD 16 = decide (2 ^ 16 ≤ t.toNat) := BitVec.msb_eq_decide t
  rw [hcarry, decide_eq_decide, BitVec.toNat_add, BitVec.toNat_setWidth, BitVec.toNat_setWidth]
  omega

/-- DAD, in exact arithmetic (R163). -/
theorem exec_dad (rp : RegPair) (s : State) :
    exec (.dad rp) s = .next
      ((s.setPair .h (s.hl + s.pair rp)).setCarry (decide (s.hl.toNat + (s.pair rp).toNat > 65535))) := by
  change execDad rp s = _
  simp only [execDad, extractLsb'_sum17, getLsbD_sum17]

/-- INX adds one (R164). -/
theorem exec_inx (rp : RegPair) (s : State) :
    exec (.inx rp) s = .next (s.setPair rp (s.pair rp + 1#16)) := rfl

/-- DCX takes one away, which modulo 2^16 adds 65535 (R165). -/
theorem exec_dcx (rp : RegPair) (s : State) :
    exec (.dcx rp) s = .next (s.setPair rp (s.pair rp + 65535#16)) :=
  congrArg (fun w => Host.Outcome.next (s.setPair rp w)) (BitVec.sub_eq_add_neg (s.pair rp) 1#16)

/-- The two bytes that a sum leaves in a pair, in exact arithmetic (`10_state.md` R12). -/
theorem toNat_add_split (v w : Word) :
    ((v + w).extractLsb' 8 8 ++ (v + w).extractLsb' 0 8).toNat = (v.toNat + w.toNat) % 65536 := by
  rw [word_split, BitVec.toNat_add]

/-! ## The exchange with the stack's top (`44_register_pair.md` R167) -/

/-- XTHL: L and H stored at SP and above it after both bytes there have been read, and then loaded with them (R167). -/
theorem exec_xthl (s : State) :
    exec .xthl s = .next { (s.afterLoads [s.sp, s.sp + 1#16]).writeWord s.sp s.hl with
      regs := { s.regs with h := s.byteAfter s.sp, l := s.byteAt s.sp } } := by
  obtain ⟨hhigh, hlow⟩ := append_split (s.byteAfter s.sp) (s.byteAt s.sp)
  change execXthl s = _
  rw [execXthl, State.readWord_eq_afterLoads]
  simp only [State.setPair, hhigh, hlow, State.writeWord_regs]
  rfl

/-! ## The statements -/

/-- Settles O27: a push of what `State.stackPair` gives, which for PSW is the byte `Flags.toByte_eq_ofNat` writes out. -/
theorem pushPair : Obligations.PushPair := by
  intro s
  dsimp only
  rw [← Flags.toByte_eq_ofNat]
  exact ⟨pushes_push .b s, pushes_push .d s, pushes_push .h s, pushes_push .psw s⟩

/-- Settles O28: the two bytes at the stack's top, put in the pair's registers or, for PSW, in A and the condition bits. -/
theorem popPair : Obligations.PopPair := by
  intro s lo hi u
  refine ⟨exec_pop .b s, exec_pop .d s, exec_pop .h s, ?_⟩
  rw [← Flags.ofByte_eq_decide]
  exact exec_pop .psw s

/-- Settles O29: the state PUSH leaves is the push itself, and POP of it is `exec_pop_pushBytes`. -/
theorem popUndoesPush : Obligations.PopUndoesPush := by
  intro s rp hfirst hsecond
  exact ⟨_, rfl, (stores_pushBytes s _ _).sameBytesBut, exec_pop_pushBytes rp hfirst hsecond⟩

/-- Settles O30: DAD's equation at each pair, the sum given as the two bytes H:L takes. -/
theorem addPair : Obligations.AddPair := by
  intro s hl added
  have hadded (rp : RegPair) : added rp (s.pair rp) := ⟨_, _, toNat_add_split s.hl (s.pair rp), exec_dad rp s⟩
  exact ⟨hadded .b, hadded .d, hadded .h, hadded .sp⟩

/-- Settles O31: what is counted is the sum with 1 or with 65535, written to each pair. -/
theorem countPair : Obligations.CountPair := by
  intro s counted
  have hcounted (i : RegPair → Instr) (n : Word)
      (hexec : ∀ rp, exec (i rp) s = .next (s.setPair rp (s.pair rp + n)))
      (htime : ∀ rp, (i rp).timePeriods s.flags = some 5) : counted i n.toNat :=
    ⟨⟨_, _, toNat_add_split s.regs.bc n, hexec .b⟩, ⟨_, _, toNat_add_split s.regs.de n, hexec .d⟩,
      ⟨_, _, toNat_add_split s.regs.hl n, hexec .h⟩, ⟨_, BitVec.toNat_add s.sp n, hexec .sp⟩, htime⟩
  exact ⟨hcounted .inx 1#16 (exec_inx · s) fun _ => rfl, hcounted .dcx 65535#16 (exec_dcx · s) fun _ => rfl,
    rfl, rfl, rfl, rfl, rfl, rfl, rfl, rfl⟩

/-- Settles O33: the bytes read are those of before the stores, and the stores go to the two addresses read. -/
theorem exchangeStack : Obligations.ExchangeStack := by
  intro s
  have hexec := exec_xthl s
  have hwrite := (s.afterLoads [s.sp, s.sp + 1#16]).writeWord_append s.sp s.regs.h s.regs.l
  obtain ⟨hlow, hhigh⟩ :=
    (s.afterLoads [s.sp, s.sp + 1#16]).read_writeByte_writeByte (adr_ne_add_one s.sp) s.regs.l s.regs.h
  rw [← hwrite] at hlow hhigh
  refine ⟨_, hexec, rfl, hlow, hhigh, (exec_stores hexec).sameBytesBut, ?_⟩
  rw [State.writeWord_frame]

/-- Settles O32: each part is the model's definition. -/
theorem exchangeAndLoadSp : Obligations.ExchangeAndLoadSp :=
  fun _ => ⟨rfl, rfl, rfl, rfl, rfl, rfl⟩

end Sys2Proof.Machine

/-! PROOFS of the family `45_immediate.md`: the arithmetic and logic of A with a byte in the instruction, MVI and LXI.

The sums, differences and combinations have the shapes of `42_accumulator_alu.md`, taken with no operand read. MVI writes an
operand without reading one; LXI takes its 16 bits apart into the two bytes of a pair. -/

namespace Sys2Proof.Machine

/-- Writing a byte to an operand, with none read before it and the condition bits left, is all that `writesOperand` says. -/
theorem writesOperand_of_writeR8 {i : Instr} {s : State} {dst : R8} {w : Byte}
    (h : exec i s = .next (s.writeR8 dst w)) : writesOperand i s dst w s.flags [] := by
  refine ⟨_, h, fun hdst => s.operand_writeR8 hdst w, ?_, sameRegsBut_writeR8 s rfl dst w,
    (stores_writeR8 s dst w).sameBytesBut, s.writeR8_frame dst w⟩
  rintro rfl
  exact s.read_writeByte_self s.hl w

/-- LXI sets a pair (`45_immediate.md` R180). -/
theorem exec_lxi (rp : RegPair) (data : Word) (s : State) : exec (.lxi rp data) s = .next (s.setPair rp data) := rfl

/-- Settles O23: each instruction has the shape of its register form, with the byte in place of an operand read. -/
theorem immediateOperand : Obligations.ImmediateOperand :=
  fun _ _ => ⟨adds_of_exec (c := false) rfl rfl, adds_of_exec rfl rfl, subtracts_of_exec (b := false) rfl rfl,
    subtracts_of_exec rfl rfl, combines_of_exec rfl rfl rfl fun _ => BitVec.getLsbD_and,
    combines_of_exec rfl rfl rfl fun _ => BitVec.getLsbD_xor, combines_of_exec rfl rfl rfl fun _ => BitVec.getLsbD_or⟩

/-- Settles O24: MVI is one write to its operand, LXI one write to a pair, whose registers take its two bytes apart. -/
theorem loadImmediate : Obligations.LoadImmediate := by
  intro s r data hi lo
  obtain ⟨hhigh, hlow⟩ := append_split hi lo
  refine ⟨writesOperand_of_writeR8 rfl, ?b, ?d, ?h, exec_lxi .sp (hi ++ lo) s⟩
  case b | d | h => simp only [exec_lxi, State.setPair, hhigh, hlow]

end Sys2Proof.Machine

/-! PROOFS of the family `46_direct_addressing.md`: SHLD and LHLD, a 16-bit store and a 16-bit load of H:L. -/

namespace Sys2Proof.Machine

/-- What the two addresses of a 16-bit store hold after it, the low byte at the first (`20_memory.md` R46, R47). -/
theorem State.writeWord_append_stored (s : State) (adr : Word) (high low : Byte) :
    (s.writeWord adr (high ++ low)).mem.read adr = s.stored adr low ∧
      (s.writeWord adr (high ++ low)).mem.read (adr + 1#16) = s.stored (adr + 1#16) high := by
  rw [State.writeWord_append]
  exact s.read_writeByte_writeByte (adr_ne_add_one adr) low high

/-- SHLD is the 16-bit store of H:L (`46_direct_addressing.md` R202). -/
theorem exec_shld (adr : Word) (s : State) : exec (.shld adr) s = .next (s.writeWord adr (s.regs.h ++ s.regs.l)) := rfl

/-- LHLD: L and H loaded with the two bytes of a 16-bit read (`46_direct_addressing.md` R203). -/
theorem exec_lhld (adr : Word) (s : State) :
    exec (.lhld adr) s = .next { s.afterLoads [adr, adr + 1#16] with
      regs := { s.regs with h := s.byteAfter adr, l := s.byteAt adr } } := by
  obtain ⟨hhigh, hlow⟩ := append_split (s.byteAfter adr) (s.byteAt adr)
  change execLhld adr s = _
  rw [execLhld, State.readWord_eq_afterLoads]
  simp only [State.setPair, hhigh, hlow]
  rfl

/-- Settles O18: SHLD's two bytes and its frame are those of the 16-bit store; LHLD is `exec_lhld`. -/
theorem directHL : Obligations.DirectHL := by
  intro s adr
  obtain ⟨hlow, hhigh⟩ := s.writeWord_append_stored adr s.regs.h s.regs.l
  have hbytes := (stores_writeWord s adr (s.regs.h ++ s.regs.l)).sameBytesBut
  exact ⟨⟨_, exec_shld adr s, hlow, hhigh, hbytes, s.writeWord_frame adr _⟩, exec_lhld adr s⟩

end Sys2Proof.Machine

/-! PROOFS of the family `47_jump_call_return_rst.md`: jumps, calls, returns and RST.

Every transfer of control is a jump, the call operation or the return operation, perhaps under a condition. What each of these does
is proved once, for any instruction that is it; the statements' lists are then that, taken at each condition. -/

namespace Sys2Proof.Machine

variable {i : Instr} {s : State}

/-! ## Jumps (R212 to R219) -/

/-- A conditional jump writes `pc` alone. -/
theorem exec_of_jumpIf {target : Word} (cnd : Cond) (h : exec i s = .next (s.jumpIf cnd target)) :
    exec i s = .next { s with pc := if s.flags.holds cnd then target else s.pc } := by
  rw [h, State.jumpIf_eq]

/-! ## Calls (R220 to R229, R241) -/

/-- The high byte of a word, in exact arithmetic. -/
theorem extractLsb'_high (w : Word) : w.extractLsb' 8 8 = BitVec.ofNat 8 (w.toNat / 256) := by
  rw [BitVec.extractLsb', Nat.shiftRight_eq_div_pow]

/-- The call operation is all that `calls` says (R220). -/
theorem calls_of_callOp {target : Word} (h : exec i s = .next (s.callOp target)) : calls i s target := by
  rw [calls, ← extractLsb'_high]
  exact pushes_of_exec h

/-- A conditional call: a call where its condition holds, nothing elsewhere (R222 to R229). -/
theorem calls_of_callIf {target : Word} (cnd : Cond) (h : exec i s = .next (s.callIf cnd target)) :
    if s.flags.holds cnd = true then calls i s target else exec i s = .next s := by
  split
  case isTrue hcnd =>
    rw [State.callIf, if_pos hcnd] at h
    exact calls_of_callOp h
  case isFalse hcnd => rw [h, State.callIf, if_neg hcnd]

/-- RST's target is eight times its number (`30_encoding.md` R78). -/
theorem rstTarget_eq_ofNat (n : BitVec 3) : rstTarget n = BitVec.ofNat 16 (8 * n.toNat) := by
  revert n
  decide

/-! ## Returns (R230 to R239) -/

/-- A return, in the statements' words (R230). -/
theorem State.retOp_eq (s : State) :
    s.retOp = { s.afterLoads [s.sp, s.sp + 1#16] with pc := s.byteAfter s.sp ++ s.byteAt s.sp, sp := s.sp + 2#16 } := by
  rw [State.retOp_eq_afterLoads, State.pop16_eq_afterLoads]

/-- The return operation is all that `returns` says (R230). -/
theorem returns_of_retOp (h : exec i s = .next s.retOp) : returns i s := by
  rw [returns, h, State.retOp_eq]

/-- A conditional return: a return where its condition holds, nothing elsewhere (R232 to R239). -/
theorem returns_of_retIf (cnd : Cond) (h : exec i s = .next (s.retIf cnd)) :
    if s.flags.holds cnd = true then returns i s else exec i s = .next s := by
  split
  case isTrue hcnd =>
    rw [State.retIf, if_pos hcnd] at h
    exact returns_of_retOp h
  case isFalse hcnd => rw [h, State.retIf, if_neg hcnd]

/-- A return does not depend on the program counter it replaces (R230). -/
theorem State.retOp_with_pc (s : State) (w : Word) : ({ s with pc := w } : State).retOp = s.retOp := by
  rw [State.retOp_eq, State.retOp_eq]
  rfl

/-- A return takes back the address a call pushed in read/write memory: only memory is not as before (R220, R230). -/
theorem State.retOp_callOp (target : Word) (hfirst : s.kind (s.sp - 1#16) = .rw) (hsecond : s.kind (s.sp - 2#16) = .rw) :
    (s.callOp target).retOp = { s with mem := (s.callOp target).mem } := by
  rw [State.callOp, State.retOp_with_pc, State.retOp, State.push16, State.pop16_pushBytes _ _ hfirst hsecond, word_split]

end Sys2Proof.Machine

/-! ## The statements

Named under `TransferOfControl`, since `calls` and `returns` name predicates of the model. -/

namespace Sys2Proof.Machine.TransferOfControl

/-- Settles O38: the state CALL leaves is the call operation's, and RET of it is `State.retOp_callOp`. -/
theorem returnUndoesCall : Obligations.ReturnUndoesCall := by
  intro s adr hfirst hsecond
  exact ⟨_, rfl, (stores_callOp s adr).sameBytesBut, congrArg Host.Outcome.next (State.retOp_callOp adr hfirst hsecond)⟩

/-- Settles O35: CALL is the call operation, and the others are it under each condition. -/
theorem calls : Obligations.Calls := by
  intro s adr
  refine ⟨calls_of_callOp rfl, ?_⟩
  simp only [List.forall_mem_cons]
  exact ⟨calls_of_callIf .c rfl, calls_of_callIf .nc rfl, calls_of_callIf .z rfl, calls_of_callIf .nz rfl,
    calls_of_callIf .m rfl, calls_of_callIf .p rfl, calls_of_callIf .pe rfl, calls_of_callIf .po rfl, nofun⟩

/-- Settles O36: RET is the return operation, and the others are it under each condition. -/
theorem returns : Obligations.Returns := by
  intro s
  refine ⟨returns_of_retOp rfl, ?_⟩
  simp only [List.forall_mem_cons]
  exact ⟨returns_of_retIf .c rfl, returns_of_retIf .nc rfl, returns_of_retIf .z rfl, returns_of_retIf .nz rfl,
    returns_of_retIf .m rfl, returns_of_retIf .p rfl, returns_of_retIf .pe rfl, returns_of_retIf .po rfl, nofun⟩

/-- Settles O37: RST is the call operation to its target. -/
theorem restart : Obligations.Restart := by
  intro s n
  rw [← rstTarget_eq_ofNat]
  exact calls_of_callOp rfl

/-- Settles O34: PCHL and JMP by their definitions, the others by `exec_of_jumpIf` at each condition. -/
theorem jumps : Obligations.Jumps := by
  intro s adr
  refine ⟨rfl, rfl, ?_⟩
  simp only [List.forall_mem_cons]
  exact ⟨exec_of_jumpIf .c rfl, exec_of_jumpIf .nc rfl, exec_of_jumpIf .z rfl, exec_of_jumpIf .nz rfl,
    exec_of_jumpIf .m rfl, exec_of_jumpIf .p rfl, exec_of_jumpIf .pe rfl, exec_of_jumpIf .po rfl, nofun⟩

end Sys2Proof.Machine.TransferOfControl

/-! PROOFS of the families `48_interrupt_io_halt.md` and `60_exceptions.md`: EI, DI, HLT, IN and OUT, and what a step does at an
instruction boundary.

Two facts carry the statements about a step. `boundaryKind`: a boundary is of one of five kinds, each with one equation for
`step`. `exec_of_wellFormed`: an instruction that has an encoding completes where it is assigned and is refused by its own byte
where it is not. Together they give the four ends of a step, `stepEnds`. -/

namespace Sys2Proof.Machine

/-! ## The five kinds of boundary (`60_exceptions.md` R345 to R347, R352) -/

/-- What the draw, INTE and the run state make of the boundary that `s` stands at. -/
inductive BoundaryKind (s : State) : Prop
  /-- a request is accepted (R345) -/
  | accepts {op : Byte} (hirq : s.irqNow = some op) (hinte : s.inte = true) (hadmitted : admitted op = true)
  /-- the instruction a device supplies is not admitted (R346) -/
  | refuses {op : Byte} (hirq : s.irqNow = some op) (hinte : s.inte = true) (hadmitted : admitted op = false)
  /-- the program's next instruction (R342) -/
  | runs (hrun : s.run = .running) (hirq : s.irqNow = none ∨ s.inte = false)
  /-- a STOPPED machine waits for a request (R347) -/
  | waits (hrun : s.run = .stopped) (hinte : s.inte = true) (hirq : s.irqNow = none)
  /-- no step is enabled (R352) -/
  | isOver (hrun : s.run = .stopped) (hinte : s.inte = false)

theorem boundaryKind (s : State) : BoundaryKind s := by
  cases hinte : s.inte with
  | false =>
    cases hrun : s.run with
    | running => exact .runs hrun (.inr hinte)
    | stopped => exact .isOver hrun hinte
  | true =>
    cases hirq : s.irqNow with
    | some op =>
      cases hadmitted : admitted op with
      | true => exact .accepts hirq hinte hadmitted
      | false => exact .refuses hirq hinte hadmitted
    | none =>
      cases hrun : s.run with
      | running => exact .runs hrun (.inl hirq)
      | stopped => exact .waits hrun hinte hirq

section Boundaries

variable {s t : State}

/-- With INTE = 1 a request is put to `acceptRequest`, whatever the run state (R345, R347). -/
theorem step_of_request {op : Byte} (hirq : s.irqNow = some op) (hinte : s.inte = true) :
    step s = acceptRequest op s.nextBoundary := by
  simp [step, atBoundary, hirq, hinte]

/-- An admitted request is accepted, and the supplied instruction executes (R344, R345). -/
theorem step_of_admitted {op : Byte} (hirq : s.irqNow = some op) (hinte : s.inte = true) (hadmitted : admitted op = true) :
    step s = exec (decodeBytes op 0#8 0#8) s.nextBoundary.accept := by
  rw [step_of_request hirq hinte, acceptRequest, if_pos hadmitted]

/-- A request that is not admitted is refused (R346). -/
theorem step_of_not_admitted {op : Byte} (hirq : s.irqNow = some op) (hinte : s.inte = true)
    (hadmitted : admitted op = false) : step s = .refused (.deviceInstruction op) := by
  rw [step_of_request hirq hinte, acceptRequest, hadmitted]
  rfl

/-- STOPPED with INTE = 1 and no request: a wait (R347). -/
theorem step_of_waiting (hrun : s.run = .stopped) (hinte : s.inte = true) (hirq : s.irqNow = none) :
    step s = .next s.nextBoundary := by
  simp [step, atBoundary, hirq, hinte, hrun]

/-- STOPPED with INTE = 0: no step is enabled, whatever the draw (R352). -/
theorem step_of_final (hrun : s.run = .stopped) (hinte : s.inte = false) : step s = .fault .stoppedForGood := by
  cases hirq : s.irqNow <;> simp [step, atBoundary, hirq, hinte, hrun]

theorem isAccepting_of_request {op : Byte} (hirq : s.irqNow = some op) (hinte : s.inte = true) : s.isAccepting = true := by
  simp [State.isAccepting, hirq, hinte]

theorem inte_of_isAccepting (h : s.isAccepting = true) : s.inte = true := by
  obtain ⟨hinte, -⟩ := Bool.and_eq_true_iff.mp h
  exact hinte

/-- A step that answers a next state waits, or executes an instruction in a RUNNING machine: an acceptance has made it so, or it
was so before and the fetch has left INTE (R345, `10_state.md` R15). -/
theorem step_executes_running (h : step s = .next t) :
    t = s.nextBoundary ∨
    ∃ i u, s.executes = some i ∧ exec i u = .next t ∧ u.run = .running ∧
      (s.isAccepting = true ∨ s.run = .running ∧ u.inte = s.inte) := by
  rcases step_next h with ⟨op, hirq, hinte, hadmitted, hexec⟩ | ⟨hirq, hrun, hexec⟩ | ⟨-, -, -, hwait⟩
  · exact .inr ⟨_, _, executes_of_accepted hirq hinte hadmitted, hexec, rfl, .inl (isAccepting_of_request hirq hinte)⟩
  · have hfetch : (fetch s.nextBoundary).2.run = s.run ∧ (fetch s.nextBoundary).2.inte = s.inte := by
      rw [fetch_eq]
      exact ⟨rfl, rfl⟩
    obtain ⟨hfetchRun, hfetchInte⟩ := hfetch
    exact .inr ⟨_, _, executes_of_running hrun hirq, hexec, hfetchRun.trans hrun, .inr ⟨hrun, hfetchInte⟩⟩
  · exact .inl hwait

end Boundaries

/-! ## How an instruction ends (`30_encoding.md` R91) -/

/-- MOV completes for every pair of operands but M,M (`41_data_transfer.md` R120). -/
theorem exec_mov_of_wellFormed {dst src : R8} (hwf : (Instr.mov dst src).wellFormed = true) (s : State) :
    ∃ t, exec (.mov dst src) s = .next t := by
  change ∃ t, execMov dst src s = .next t
  unfold execMov
  split
  case isTrue hmm =>
    obtain ⟨rfl, rfl⟩ := hmm
    cases hwf
  case isFalse => exact ⟨_, rfl⟩

/-- An assigned instruction that has an encoding completes in every state. -/
theorem exec_of_assigned {i : Instr} (hwf : i.wellFormed = true) (hassigned : i.assigned = true) (s : State) :
    ∃ t, exec i s = .next t := by
  cases i with
  | mov dst src => exact exec_mov_of_wellFormed hwf s
  | unassigned08 | unassigned10 | unassigned18 | unassigned20 | unassigned28 | unassigned30 | unassigned38 | unassignedCB
  | unassignedD9 | unassignedDD | unassignedED | unassignedFD => cases hassigned
  | _ => exact ⟨_, rfl⟩

/-- An unassigned row is refused in every state, by the one byte that is its encoding (R91; D8, log 12). -/
theorem exec_of_not_assigned {i : Instr} (hassigned : i.assigned = false) (s : State) :
    ∃ op, encode i = [op] ∧ exec i s = .refused (.unassigned op) := by
  cases i with
  | unassigned08 | unassigned10 | unassigned18 | unassigned20 | unassigned28 | unassigned30 | unassigned38 | unassignedCB
  | unassignedD9 | unassignedDD | unassignedED | unassignedFD => exact ⟨_, rfl, rfl⟩
  | _ => cases hassigned

/-- The two ends of an instruction that has an encoding. -/
theorem exec_of_wellFormed {i : Instr} (hwf : i.wellFormed = true) (s : State) :
    (∃ t, exec i s = .next t) ∨
    i.assigned = false ∧ ∃ op, encode i = [op] ∧ exec i s = .refused (.unassigned op) := by
  cases hassigned : i.assigned with
  | true => exact .inl (exec_of_assigned hwf hassigned s)
  | false => exact .inr ⟨rfl, exec_of_not_assigned hassigned s⟩

/-- What is fetched is decoded from the byte at `pc` and some others (`30_encoding.md` R92). -/
theorem fetch_fst (s : State) : ∃ b2 b3, (fetch s).1 = decodeBytes (s.peek s.pc) b2 b3 := by
  rw [fetch_eq, State.peek_eq_byteAt]
  exact ⟨_, _, rfl⟩

theorem wellFormed_fetch (s : State) : (fetch s).1.wellFormed = true := by
  obtain ⟨b2, b3, h⟩ := fetch_fst s
  rw [h]
  exact wellFormed_decodeBytes _ _ _

/-- A fetched instruction that is encoded in one byte is encoded in the byte at `pc`. -/
theorem encode_fetch_eq_singleton {s : State} {op : Byte} (h : encode (fetch s).1 = [op]) : op = s.peek s.pc := by
  obtain ⟨b2, b3, hfetch⟩ := fetch_fst s
  have hlen : instrLength (s.peek s.pc) = 1 := by
    rw [← encode_decodeBytes_length _ b2 b3, ← hfetch, h]
    rfl
  rw [hfetch, encode_decodeBytes, hlen] at h
  exact (List.cons.inj h).1.symm

/-! ## Requests that are admitted (`60_exceptions.md` R346; log 16) -/

/-- Admitted: a one-byte instruction, as its encoding has it, that is assigned. -/
theorem admitted_iff (op : Byte) :
    admitted op = true ↔
      (encode (decodeBytes op 0#8 0#8)).length = 1 ∧ (decodeBytes op 0#8 0#8).assigned = true := by
  rw [admitted, Bool.and_eq_true_iff, beq_iff_eq, encode_decodeBytes_length]

/-- An acceptance completes: nothing that is admitted is refused. -/
theorem exec_of_admitted {op : Byte} (hadmitted : admitted op = true) (s : State) :
    ∃ t, exec (decodeBytes op 0#8 0#8) s = .next t := by
  obtain ⟨-, hassigned⟩ := (admitted_iff op).mp hadmitted
  exact exec_of_assigned (wellFormed_decodeBytes _ _ _) hassigned s

theorem decodeBytes_rst (n : BitVec 3) : decodeBytes (0b11#2 ++ n ++ 0b111#3) 0#8 0#8 = .rst n := by
  revert n
  decide

theorem admitted_rst (n : BitVec 3) : admitted (0b11#2 ++ n ++ 0b111#3) = true := by
  revert n
  decide

/-- The acceptance of an RST is the call operation in the state the acceptance makes (R344, R345). -/
theorem step_of_rst {s : State} {n : BitVec 3} (hinte : s.inte = true)
    (hirq : s.irqNow = some (0b11#2 ++ n ++ 0b111#3)) : step s = exec (.rst n) s.nextBoundary.accept := by
  rw [step_of_admitted hirq hinte (admitted_rst n), decodeBytes_rst]

/-! ## How a step ends (`60_exceptions.md` R346, R352) -/

/-- The four ends of a step. -/
inductive StepEnds (s : State) : Prop
  | next {t : State} (hstep : step s = .next t)
  /-- the final state (R352) -/
  | fault (hstep : step s = .fault .stoppedForGood) (hfinal : s.isFinal = true)
  /-- a request whose instruction is not admitted (R346) -/
  | deviceInstruction {op : Byte} (hstep : step s = .refused (.deviceInstruction op)) (hirq : s.irqNow = some op)
      (hinte : s.inte = true) (hadmitted : admitted op = false)
  /-- an unassigned byte at `pc` (`30_encoding.md` R91) -/
  | unassigned {op : Byte} {i : Instr} (hstep : step s = .refused (.unassigned op)) (hexecutes : s.executes = some i)
      (hassigned : i.assigned = false) (hop : op = s.peek s.pc) (hencode : encode i = [op])

theorem isFinal_iff (s : State) : s.isFinal = true ↔ s.run = .stopped ∧ s.inte = false := by
  simp [State.isFinal]

/-- A step ends in one of the four ways, since the instruction it executes completes or is refused by its own byte. -/
theorem stepEnds (s : State) : StepEnds s := by
  cases boundaryKind s with
  | accepts hirq hinte hadmitted =>
    obtain ⟨t, hexec⟩ := exec_of_admitted hadmitted s.nextBoundary.accept
    exact .next ((step_of_admitted hirq hinte hadmitted).trans hexec)
  | refuses hirq hinte hadmitted =>
    exact .deviceInstruction (step_of_not_admitted hirq hinte hadmitted) hirq hinte hadmitted
  | runs hrun hirq =>
    rcases exec_of_wellFormed (wellFormed_fetch s.nextBoundary) (fetch s.nextBoundary).2 with
      ⟨t, hexec⟩ | ⟨hassigned, op, hencode, hexec⟩
    · exact .next ((step_running hrun hirq).trans hexec)
    · exact .unassigned ((step_running hrun hirq).trans hexec) (executes_of_running hrun hirq) hassigned
        (encode_fetch_eq_singleton (s := s.nextBoundary) hencode) hencode
  | waits hrun hinte hirq => exact .next (step_of_waiting hrun hinte hirq)
  | isOver hrun hinte => exact .fault (step_of_final hrun hinte) ((isFinal_iff s).mpr ⟨hrun, hinte⟩)

/-! ## The instructions that write INTE and the run state (`10_state.md` R28, R29) -/

section ControlState

variable {i : Instr} {s t : State}

/-- An instruction that turns INTE on is EI. -/
theorem eq_ei_of_exec_sets_inte (h : exec i s = .next t) (hs : s.inte = false) (ht : t.inte = true) : i = .ei := by
  obtain ⟨-, hinte, -⟩ := controlUntouched i s t h
  by_cases hei : i = .ei
  · exact hei
  · by_cases hdi : i = .di
    · subst hdi
      cases h
      cases ht
    · rw [hinte hei hdi, hs] at ht
      cases ht

/-- An instruction that turns INTE off is DI. -/
theorem eq_di_of_exec_resets_inte (h : exec i s = .next t) (hs : s.inte = true) (ht : t.inte = false) : i = .di := by
  obtain ⟨-, hinte, -⟩ := controlUntouched i s t h
  by_cases hdi : i = .di
  · exact hdi
  · by_cases hei : i = .ei
    · subst hei
      cases h
      cases ht
    · rw [hinte hei hdi, hs] at ht
      cases ht

/-- An instruction that stops a RUNNING machine is HLT. -/
theorem eq_hlt_of_exec_stops (h : exec i s = .next t) (hs : s.run = .running) (ht : t.run = .stopped) : i = .hlt := by
  obtain ⟨-, -, hrun, -⟩ := controlUntouched i s t h
  by_cases hhlt : i = .hlt
  · exact hhlt
  · rw [hrun hhlt, hs] at ht
    cases ht

end ControlState

/-! ## The statements -/

/-- Settles O39: each instruction is its one update, and each encoding and time its row. -/
theorem interruptFlipFlopAndHalt : Obligations.InterruptFlipFlopAndHalt :=
  fun _ => ⟨rfl, rfl, rfl, rfl, rfl, rfl, rfl⟩

/-- Settles O40: IN is `State.input` into A, OUT is `State.output` of A. -/
theorem deviceBytes : Obligations.DeviceBytes := fun _ _ => ⟨rfl, rfl⟩

/-- Settles O50: without an acceptance an instruction executes with INTE as it is in `s`, and only EI and DI write it. -/
theorem inteWrittenOnlyByThree : Obligations.InteWrittenOnlyByThree := by
  intro s t h
  rcases step_executes_running h with rfl | ⟨i, u, hexecutes, hexec, -, hkind⟩
  · rw [State.nextBoundary_inte]
    exact ⟨fun hoff hon => absurd (hoff.symm.trans hon) nofun, fun hon hoff => absurd (hoff.symm.trans hon) nofun⟩
  · rcases hkind with hacc | ⟨-, hinte⟩
    · exact ⟨fun hoff => absurd (hoff.symm.trans (inte_of_isAccepting hacc)) nofun, fun _ _ => .inr hacc⟩
    · rw [hexecutes, ← hinte]
      exact ⟨fun hoff hon => congrArg some (eq_ei_of_exec_sets_inte hexec hoff hon),
        fun hon hoff => .inl (congrArg some (eq_di_of_exec_resets_inte hexec hon hoff))⟩

/-- Settles O51: an instruction executes in a RUNNING machine, so only HLT stops it and only an acceptance starts it. -/
theorem stoppedLeftOnlyByAcceptance : Obligations.StoppedLeftOnlyByAcceptance := by
  intro s t h
  rcases step_executes_running h with rfl | ⟨i, u, hexecutes, hexec, hrunning, hkind⟩
  · rw [State.nextBoundary_run]
    exact ⟨fun hstopped hrun => absurd (hstopped.symm.trans hrun) nofun, .inl⟩
  · constructor
    · intro hstopped _
      rcases hkind with hacc | ⟨hrun, -⟩
      · exact hacc
      · exact absurd (hstopped.symm.trans hrun) nofun
    · intro hstops
      exact .inr (hexecutes.trans (congrArg some (eq_hlt_of_exec_stops hexec hrunning hstops)))

/-- Settles O52: the equations of `step` for the three kinds of boundary of a STOPPED machine. -/
theorem stoppedMachine : Obligations.StoppedMachine :=
  fun _ hrun => ⟨step_of_waiting hrun, fun _ hinte hirq hadmitted => step_of_admitted hirq hinte hadmitted,
    step_of_final hrun⟩

/-- Settles O53: of the four ends of a step one is the fault, and the final state has that end. -/
theorem onlyFaultIsFinalState : Obligations.OnlyFaultIsFinalState := by
  intro s f
  constructor
  · intro h
    cases stepEnds s with
    | next hnext => cases hnext.symm.trans h
    | fault hfault hfinal =>
      cases hfault.symm.trans h
      exact ⟨hfinal, rfl⟩
    | deviceInstruction hrefused => cases hrefused.symm.trans h
    | unassigned hrefused => cases hrefused.symm.trans h
  · rintro ⟨hfinal, rfl⟩
    obtain ⟨hrun, hinte⟩ := (isFinal_iff s).mp hfinal
    exact step_of_final hrun hinte

/-- Settles O54: two of the four ends of a step are refusals; the hypotheses of the second part leave only a next state. -/
theorem refusalsAreNamed : Obligations.RefusalsAreNamed := by
  constructor
  · intro s r h
    cases stepEnds s with
    | next hnext => cases hnext.symm.trans h
    | fault hfault => cases hfault.symm.trans h
    | deviceInstruction hrefused hirq hinte hadmitted =>
      cases hrefused.symm.trans h
      exact .inl ⟨_, rfl, hirq, hinte, hadmitted⟩
    | unassigned hrefused hexecutes hassigned hop hencode =>
      cases hrefused.symm.trans h
      exact .inr ⟨_, _, rfl, hexecutes, hassigned, hop, hencode⟩
  · intro s hrun hrequests hprogram
    cases stepEnds s with
    | next hnext => exact ⟨_, hnext⟩
    | fault _ hfinal =>
      obtain ⟨hstopped, -⟩ := (isFinal_iff s).mp hfinal
      exact absurd (hrun.symm.trans hstopped) nofun
    | deviceInstruction _ hirq hinte hadmitted =>
      exact absurd (hadmitted.symm.trans (hrequests _ hinte hirq)) nofun
    | unassigned _ hexecutes hassigned => exact absurd (hassigned.symm.trans (hprogram _ hexecutes)) nofun

/-- Settles O55: RST as an instruction of the program, in the state the acceptance makes. -/
theorem acceptRestart : Obligations.AcceptRestart := by
  intro s n hinte hirq
  obtain ⟨t, hexec, hhigh, hlow, hbytes, hframe⟩ := TransferOfControl.restart s.nextBoundary.accept n
  exact ⟨t, (step_of_rst hinte hirq).trans hexec, hhigh, hlow, hbytes, hframe⟩

/-- Settles O56: the return operation undoes the call operation of the RST accepted. -/
theorem returnFromInterrupt : Obligations.ReturnFromInterrupt := by
  intro s n hinte hirq hfirst hsecond
  have hret := State.retOp_callOp (s := s.nextBoundary.accept) (rstTarget n) hfirst hsecond
  exact ⟨_, step_of_rst hinte hirq, (stores_callOp s.nextBoundary.accept (rstTarget n)).sameBytesBut,
    congrArg Host.Outcome.next hret⟩

/-- Settles O57: the equations of `step`, with `admitted` in the words of the encoding. -/
theorem requestsAccepted : Obligations.RequestsAccepted := by
  intro s
  refine ⟨fun hrun hirq => step_running hrun hirq.symm, fun op hinte hirq hlen hassigned => ?_,
    fun op hinte hirq hnot => ?_⟩
  · exact step_of_admitted hirq hinte ((admitted_iff op).mpr ⟨hlen, hassigned⟩)
  · refine step_of_not_admitted hirq hinte (Bool.eq_false_iff.mpr fun hadmitted => ?_)
    obtain ⟨hlen, hassigned⟩ := (admitted_iff op).mp hadmitted
    exact hnot.elim (fun hne => hne hlen) fun hunassigned => absurd (hunassigned.symm.trans hassigned) nofun

/-- Settles O59: the draw passes the boundary, and no instruction touches the environment. -/
theorem stepPassesOneBoundary : Obligations.StepPassesOneBoundary := by
  intro s t h
  rcases step_executes h with rfl | ⟨i, u, -, hexec, hu⟩
  · exact ⟨rfl, rfl, rfl, rfl⟩
  · obtain ⟨⟨hmap, hboundary, hirq, hinputs⟩, -⟩ := controlUntouched i u t hexec
    rw [hmap, hboundary, hirq, hinputs, hu]
    exact ⟨rfl, rfl, rfl, rfl⟩

end Sys2Proof.Machine
